-- ==== Sys2Proof/Word.lean ====
section
/-!
DEFINITION. The two units of data the bridge moves (rules R5, R8, R41): a host-stream byte of
8 bits and a UART frame value of 9 bits. Nothing in the block is wider than 9 bits. Bit 0 is the
least significant bit, and every value is unsigned (R8).
-/

namespace Sys2Proof

/-- One unit of either host stream: `BYTE_W` = 8 bits (R5, R6, R41). -/
abbrev Byte := BitVec 8

/-- One unit of either UART stream: `FRAME_W` = 9 bits, bit 8 the side-channel bit, bits 7 to 0
the data bits (R5, R8, R62). -/
abbrev Frame := BitVec 9

end Sys2Proof
end

