-- ==== Sys2Proof/Config.lean ====
section
/-!
DEFINITION. The protocol literals of Table R6, each under the name the spec gives it. The spec takes
them as named parameters with the document's values (R6, 92 D14, 93 U15), so an audit of the literals
changes this file alone. The two open parameters of Table R7 are not here: `BAUD_INIT` (92 D7) is the
operand of `OPEN`, and `TXC_BEFORE_FIRST` (92 D18, default `free`) is an answer the environment
chooses (`EnvMove.lineAnswer` in Machine/State.lean). The one constant without a value,
`stopGoesOffline`, is a point the spec leaves to the adapter.
-/

namespace Sys2Proof.Config

/-- `ESC` (R6): the escape code, and the control byte "escaped escape". -/
abbrev esc : Byte := 0xFF#8

/-- `HIGH` (R6): the control byte after which the next byte goes out with the side-channel bit set. -/
abbrev high : Byte := 0x01#8

/-- `BAUD_BASE` (R6): the first baud-select code. -/
abbrev baudBase : Byte := 0x10#8

/-- `BAUD_COUNT` (R6): the number of baud-select codes, `0x10` to `0x19`. -/
abbrev baudCount : Nat := 10

/-- `BAUD_TABLE` (R6): the rate in bit/s that code `BAUD_BASE + i` selects, for `i` from 0 to 9. -/
def baudTable : List Nat :=
  [300, 600, 1200, 2400, 4800, 9600, 19200, 38400, 57600, 115200]

/-- Whether the adapter's `stop()` also puts the bus in the offline mode: not stated (R52, 91 N9). It has
no value, so a claim is true whichever it is (DESIGN CHOICE, log entry 31). -/
opaque stopGoesOffline : Bool

end Sys2Proof.Config
end

