-- ==== Sys2Proof/Syntax.lean ====
section
/-!
DEFINITION. The instructions (R17, `spec/opcode_table.json`): one constructor per row of the table.
The spec's "instruction" is one of four things: a host-to-device sequence, a device-to-host encoder
production, a branch of the tick dispatcher, or a lifecycle operation. The constructor's name is the
row's mnemonic in lower camel case (LAWS.json gives the map letter for letter).
-/

namespace Sys2Proof

/-- The two directions of the host-stream wire format (R90, R95). -/
inductive Direction where
  | hostToDevice
  | deviceToHost
deriving DecidableEq, Repr

/-- The 24 rows of `spec/opcode_table.json`. -/
inductive Instr where
  /-- `DATA dd` (R151): one byte `dd`, frame `{0, dd}`. -/
  | data (dd : Byte)
  /-- `DATAFF` (R152): bytes `FF FF`, frame `0x0FF`. -/
  | dataff
  /-- `HIGH dd` (R153): bytes `FF 01 dd`, frame `{1, dd}`. -/
  | high (dd : Byte)
  /-- `BAUD0` (R171): bytes `FF 10`. -/
  | baud0
  /-- `BAUD1` (R172): bytes `FF 11`. -/
  | baud1
  /-- `BAUD2` (R173): bytes `FF 12`. -/
  | baud2
  /-- `BAUD3` (R174): bytes `FF 13`. -/
  | baud3
  /-- `BAUD4` (R175): bytes `FF 14`. -/
  | baud4
  /-- `BAUD5` (R176): bytes `FF 15`. -/
  | baud5
  /-- `BAUD6` (R177): bytes `FF 16`. -/
  | baud6
  /-- `BAUD7` (R178): bytes `FF 17`. -/
  | baud7
  /-- `BAUD8` (R179): bytes `FF 18`. -/
  | baud8
  /-- `BAUD9` (R180): bytes `FF 19`. -/
  | baud9
  /-- `ILLEGAL cc` (R154): bytes `FF cc`, discarded. -/
  | illegal (cc : Byte)
  /-- `ENC.LIT dd` (R133): the device writes the byte `dd`. -/
  | encLit (dd : Byte)
  /-- `ENC.ESC` (R132): the device writes `FF FF`. -/
  | encEsc
  /-- `ENC.HIGH dd` (R131): the device writes `FF 01 dd`. -/
  | encHigh (dd : Byte)
  /-- `T.RX` (R111): branch 1 of a tick, forward one received frame. -/
  | tRx
  /-- `T.BUSY` (R112): branch 2 of a tick, the transmit-busy guard. -/
  | tBusy
  /-- `T.HOST` (R113): branch 3 of a tick, read and decode one host byte. -/
  | tHost
  /-- `T.REL` (R114): branch 4 of a tick, release the bus. -/
  | tRel
  /-- `T.IDLE` (R115): branch 5 of a tick, nothing to do. -/
  | tIdle
  /-- `OPEN(baud)` (R184): `baud` in bit/s, a rate of `BAUD_TABLE` (92 D7, D13). -/
  | openBridge (baud : Nat)
  /-- `CLOSE` (R185). -/
  | closeBridge
deriving DecidableEq, Repr

/-- The direction of a row of the opcode table; `none` for the seven rows of format "none" (R95). -/
def Instr.direction : Instr → Option Direction
  | .data _ | .dataff | .high _ => some .hostToDevice
  | .baud0 | .baud1 | .baud2 | .baud3 | .baud4 => some .hostToDevice
  | .baud5 | .baud6 | .baud7 | .baud8 | .baud9 => some .hostToDevice
  | .illegal _ => some .hostToDevice
  | .encLit _ | .encEsc | .encHigh _ => some .deviceToHost
  | .tRx | .tBusy | .tHost | .tRel | .tIdle => none
  | .openBridge _ | .closeBridge => none

/-- The row's mnemonic, letter for letter. -/
def Instr.mnemonic : Instr → String
  | .data _ => "DATA"
  | .dataff => "DATAFF"
  | .high _ => "HIGH"
  | .baud0 => "BAUD0"
  | .baud1 => "BAUD1"
  | .baud2 => "BAUD2"
  | .baud3 => "BAUD3"
  | .baud4 => "BAUD4"
  | .baud5 => "BAUD5"
  | .baud6 => "BAUD6"
  | .baud7 => "BAUD7"
  | .baud8 => "BAUD8"
  | .baud9 => "BAUD9"
  | .illegal _ => "ILLEGAL"
  | .encLit _ => "ENC.LIT"
  | .encEsc => "ENC.ESC"
  | .encHigh _ => "ENC.HIGH"
  | .tRx => "T.RX"
  | .tBusy => "T.BUSY"
  | .tHost => "T.HOST"
  | .tRel => "T.REL"
  | .tIdle => "T.IDLE"
  | .openBridge _ => "OPEN"
  | .closeBridge => "CLOSE"

end Sys2Proof
end

