-- ==== Sys2Proof/WellFormed.lean ====
section
/-!
DEFINITION. Which operands each instruction admits (the operand ranges of Table R94 and of rules R133,
R151, R154, R184). Every other instruction takes every value of its operand.
-/

namespace Sys2Proof

/-- The control byte is a baud-select code: `0x10 <= c <= 0x19`, unsigned (R87). -/
def isBaudSelect (c : Byte) : Bool :=
  Config.baudBase.toNat ≤ c.toNat && c.toNat < Config.baudBase.toNat + Config.baudCount

/-- The control byte is one of the 244 illegal ones: `0x00`, `0x02` to `0x0F`, `0x1A` to `0xFE`
(R92, R154), that is neither `HIGH`, nor `ESC`, nor a baud-select code. -/
def isIllegalControl (c : Byte) : Bool :=
  c != Config.high && c != Config.esc && !isBaudSelect c

/-- The operand ranges of the opcode table. -/
def Instr.wf : Instr → Bool
  | .data dd => dd != Config.esc
  | .illegal cc => isIllegalControl cc
  | .encLit dd => dd != Config.esc
  | .openBridge baud => Config.baudTable.contains baud
  | .dataff | .high _ | .encEsc | .encHigh _ => true
  | .baud0 | .baud1 | .baud2 | .baud3 | .baud4 => true
  | .baud5 | .baud6 | .baud7 | .baud8 | .baud9 => true
  | .tRx | .tBusy | .tHost | .tRel | .tIdle | .closeBridge => true

end Sys2Proof
end

