-- ==== Sys2Proof/Decode.lean ====
section
/-!
DEFINITION. The host-stream wire format (30_encoding.md): the decoder from bytes to sequences, total
and rejecting by name, then the encoder written from the same tables, the assembler syntax of R94, and
the opcode table itself as data (R95). The decoder of this file reads a whole sequence from a list of
bytes; the block's own byte-at-a-time decoder (R140) is Machine/Decoder.lean.
-/

namespace Sys2Proof

/-- Why a list of bytes does not begin with a complete sequence of the wanted direction. The first
three are the cut-short tails of R85; the last exists device to host only, where the device emits no
other control byte (R90, R135). -/
inductive DecodeError where
  | emptyStream
  | cutShortAfterEsc
  | cutShortAfterHigh
  | notEmittedByDevice (c : Byte)
deriving DecidableEq, Repr

/-- The baud-select instruction with index `i = c[3:0]` (R87, Table R88); `none` where the control
byte is no baud-select code. -/
def baudOfControl (c : Byte) : Option Instr :=
  if c = 0x10#8 then some .baud0
  else if c = 0x11#8 then some .baud1
  else if c = 0x12#8 then some .baud2
  else if c = 0x13#8 then some .baud3
  else if c = 0x14#8 then some .baud4
  else if c = 0x15#8 then some .baud5
  else if c = 0x16#8 then some .baud6
  else if c = 0x17#8 then some .baud7
  else if c = 0x18#8 then some .baud8
  else if c = 0x19#8 then some .baud9
  else none

/-- The control-byte map of Table R88, host to device, for the bytes that follow an escape code. -/
def decodeControl (c : Byte) (rest : List Byte) : Except DecodeError (Instr × List Byte) :=
  if c = Config.high then
    match rest with
    | [] => .error .cutShortAfterHigh
    | dd :: rest' => .ok (.high dd, rest')
  else if c = Config.esc then .ok (.dataff, rest)
  else match baudOfControl c with
    | some i => .ok (i, rest)
    | none => .ok (.illegal c, rest)

/-- The bytes after the first escape code, device to host: the grammar of R85 has two productions. -/
def decodeProduction (c : Byte) (rest : List Byte) : Except DecodeError (Instr × List Byte) :=
  if c = Config.high then
    match rest with
    | [] => .error .cutShortAfterHigh
    | dd :: rest' => .ok (.encHigh dd, rest')
  else if c = Config.esc then .ok (.encEsc, rest)
  else .error (.notEmittedByDevice c)

/-- The first sequence of a byte stream that starts at a sequence boundary, and the bytes after it.
The length is decided by the first one or two bytes (R84); the first-byte map is R89. -/
def decode (dir : Direction) : List Byte → Except DecodeError (Instr × List Byte)
  | [] => .error .emptyStream
  | b :: rest =>
    if b = Config.esc then
      match rest with
      | [] => .error .cutShortAfterEsc
      | c :: rest' =>
        match dir with
        | .hostToDevice => decodeControl c rest'
        | .deviceToHost => decodeProduction c rest'
    else match dir with
      | .hostToDevice => .ok (.data b, rest)
      | .deviceToHost => .ok (.encLit b, rest)

/-- A whole stream split into sequences, with the bytes that are left where no complete sequence
follows (R84, R85). The first argument bounds the number of sequences read. -/
def decodeStream (dir : Direction) : Nat → List Byte → List Instr × List Byte
  | 0, bs => ([], bs)
  | n + 1, bs =>
    match decode dir bs with
    | .ok (i, rest) =>
      let split := decodeStream dir n rest
      (i :: split.1, split.2)
    | .error _ => ([], bs)

/-! ## The encoder -/

/-- The bytes of an instruction in the order they travel (Table R80, Table R94); the seven rows of
format "none" have none (R95). -/
def encode : Instr → List Byte
  | .data dd => [dd]
  | .dataff => [0xFF#8, 0xFF#8]
  | .high dd => [0xFF#8, 0x01#8, dd]
  | .baud0 => [0xFF#8, 0x10#8]
  | .baud1 => [0xFF#8, 0x11#8]
  | .baud2 => [0xFF#8, 0x12#8]
  | .baud3 => [0xFF#8, 0x13#8]
  | .baud4 => [0xFF#8, 0x14#8]
  | .baud5 => [0xFF#8, 0x15#8]
  | .baud6 => [0xFF#8, 0x16#8]
  | .baud7 => [0xFF#8, 0x17#8]
  | .baud8 => [0xFF#8, 0x18#8]
  | .baud9 => [0xFF#8, 0x19#8]
  | .illegal cc => [0xFF#8, cc]
  | .encLit dd => [dd]
  | .encEsc => [0xFF#8, 0xFF#8]
  | .encHigh dd => [0xFF#8, 0x01#8, dd]
  | .tRx => []
  | .tBusy => []
  | .tHost => []
  | .tRel => []
  | .tIdle => []
  | .openBridge _ => []
  | .closeBridge => []

/-- A program assembles to the concatenation of its bytes (R94). -/
def assemble (program : List Instr) : List Byte := program.flatMap encode

/-- The pseudo-instruction `SEND v` of Table R94, as the sequence it expands to. -/
def sendSequence (v : Frame) : Instr :=
  if v.getLsbD 8 then .high (v.setWidth 8)
  else if v.setWidth 8 = Config.esc then .dataff
  else .data (v.setWidth 8)

/-- The pseudo-instruction `BAUDRATE r` of Table R94; `none` where `r` is no rate of `BAUD_TABLE`. -/
def baudRateSequence (rate : Nat) : Option Instr :=
  match Config.baudTable.idxOf? rate with
  | some i => baudOfControl (Config.baudBase + BitVec.ofNat 8 i)
  | none => none

/-- The production the device writes for the frame value `v` (R130 to R133), as syntax. -/
def productionOf (v : Frame) : Instr :=
  if v.getLsbD 8 then .encHigh (v.setWidth 8)
  else if v.setWidth 8 = Config.esc then .encEsc
  else .encLit (v.setWidth 8)

/-- The frame value a data-carrying sequence or production stands for (R86); `none` for the others. -/
def Instr.frame : Instr → Option Frame
  | .data dd | .encLit dd => some (dd.setWidth 9)
  | .dataff | .encEsc => some 0x0FF#9
  | .high dd | .encHigh dd => some (0x100#9 ||| dd.setWidth 9)
  | _ => none

/-! ## The opcode table as data (R95) -/

/-- An entry carved out of a row: a pair read like the row's own, or a range of one byte. -/
inductive Exclusion where
  | pattern (value mask : List Byte)
  | byteRange (index : Nat) (lo hi : Byte)
deriving DecidableEq, Repr

/-- One encoded row of `spec/opcode_table.json` (byte 0 first, as it travels). -/
structure TableRow where
  mnemonic : String
  direction : Direction
  value : List Byte
  mask : List Byte
  except : List Exclusion
deriving DecidableEq, Repr

/-- `(s AND mask) = match`, byte by byte, for byte strings of the row's length. -/
def matchesMasked : List Byte → List Byte → List Byte → Bool
  | [], [], [] => true
  | v :: vs, m :: ms, b :: bs => (b &&& m) == v && matchesMasked vs ms bs
  | _, _, _ => false

/-- The byte string falls under a carved-out entry. -/
def Exclusion.covers (bs : List Byte) : Exclusion → Bool
  | .pattern value mask => matchesMasked value mask bs
  | .byteRange index lo hi =>
    match bs[index]? with
    | some b => lo.toNat ≤ b.toNat && b.toNat ≤ hi.toNat
    | none => false

/-- The byte string is this row's sequence (R95). -/
def TableRow.covers (row : TableRow) (bs : List Byte) : Bool :=
  matchesMasked row.value row.mask bs && !row.except.any (fun e => e.covers bs)

/-- The 17 rows of `spec/opcode_table.json` that have an encoding, in its order. -/
def encodedRows : List TableRow :=
  [ ⟨"DATA", .hostToDevice, [0x00#8], [0x00#8], [.pattern [0xFF#8] [0xFF#8]]⟩,
    ⟨"DATAFF", .hostToDevice, [0xFF#8, 0xFF#8], [0xFF#8, 0xFF#8], []⟩,
    ⟨"HIGH", .hostToDevice, [0xFF#8, 0x01#8, 0x00#8], [0xFF#8, 0xFF#8, 0x00#8], []⟩,
    ⟨"BAUD0", .hostToDevice, [0xFF#8, 0x10#8], [0xFF#8, 0xFF#8], []⟩,
    ⟨"BAUD1", .hostToDevice, [0xFF#8, 0x11#8], [0xFF#8, 0xFF#8], []⟩,
    ⟨"BAUD2", .hostToDevice, [0xFF#8, 0x12#8], [0xFF#8, 0xFF#8], []⟩,
    ⟨"BAUD3", .hostToDevice, [0xFF#8, 0x13#8], [0xFF#8, 0xFF#8], []⟩,
    ⟨"BAUD4", .hostToDevice, [0xFF#8, 0x14#8], [0xFF#8, 0xFF#8], []⟩,
    ⟨"BAUD5", .hostToDevice, [0xFF#8, 0x15#8], [0xFF#8, 0xFF#8], []⟩,
    ⟨"BAUD6", .hostToDevice, [0xFF#8, 0x16#8], [0xFF#8, 0xFF#8], []⟩,
    ⟨"BAUD7", .hostToDevice, [0xFF#8, 0x17#8], [0xFF#8, 0xFF#8], []⟩,
    ⟨"BAUD8", .hostToDevice, [0xFF#8, 0x18#8], [0xFF#8, 0xFF#8], []⟩,
    ⟨"BAUD9", .hostToDevice, [0xFF#8, 0x19#8], [0xFF#8, 0xFF#8], []⟩,
    ⟨"ILLEGAL", .hostToDevice, [0xFF#8, 0x00#8], [0xFF#8, 0x00#8],
      [.pattern [0xFF#8, 0x01#8] [0xFF#8, 0xFF#8], .byteRange 1 0x10#8 0x19#8,
       .pattern [0xFF#8, 0xFF#8] [0xFF#8, 0xFF#8]]⟩,
    ⟨"ENC.LIT", .deviceToHost, [0x00#8], [0x00#8], [.pattern [0xFF#8] [0xFF#8]]⟩,
    ⟨"ENC.ESC", .deviceToHost, [0xFF#8, 0xFF#8], [0xFF#8, 0xFF#8], []⟩,
    ⟨"ENC.HIGH", .deviceToHost, [0xFF#8, 0x01#8, 0x00#8], [0xFF#8, 0xFF#8, 0x00#8], []⟩ ]

/-- The rows of one direction that a byte string satisfies. -/
def coveringRows (dir : Direction) (bs : List Byte) : List TableRow :=
  encodedRows.filter fun row => row.direction == dir && row.covers bs

/-! ## Table words -/

/-- The bytes of a word numbered as the opcode table numbers it: the table reads `length` bytes as one
number with byte 0, the first to travel, the MOST significant (R95; log entry 1). Every row of the table
gives its whole sequence, so there is no byte beyond the word. -/
def bytesOfTableWord (nbits w : Nat) : List Byte :=
  let n := nbits / 8
  (List.range n).map fun k => BitVec.ofNat 8 (w >>> (8 * (n - 1 - k)))

/-- The word is a whole number of bytes, and its number is one of that many bits. -/
def isByteString (nbits w : Nat) : Bool := nbits % 8 == 0 && w < 2 ^ nbits

/-- The sequence a table word is, host to device: the only direction the block decodes (R90; log entry 2).
A word that no row covers is none: a cut-short tail (`FF`, `FF 01`; R84, R85) or a sequence with bytes
after it. So is a word that is no byte string at all, of which the spec does not speak (DESIGN CHOICE, log
entry 1). -/
def decodeTableWord (nbits w : Nat) : Option Instr :=
  if isByteString nbits w then
    match decode .hostToDevice (bytesOfTableWord nbits w) with
    | .ok (i, []) => some i
    | .ok (_, _ :: _) => none
    | .error _ => none
  else none

end Sys2Proof
end

