-- ==== Sys2Proof/Machine/State.lean ====
section
/-!
DEFINITION. The state (10_state.md), as plain data. Four parts:
* the block's own two registers `DSTATE` and `TALK` (R20);
* where the block stands in the admitted order of operations (R186), the model's own field;
* the environment the contracts of R44 to R59 describe, item by item as Table R29 lists it: the
  Peripheral Adapter and the Host Port;
* the model's own two lists: the operations the outside calls next, with the environment's moves in
  them (92 D8), and the trace of primitive calls (R10), which is what is observed of a run (R234).
No rule of the block reads the trace, and nothing of it reaches the outside.
-/

namespace Sys2Proof.Machine

/-- `DSTATE`, the decoder state (R21, R22). `invalid` is the fourth value of its two bits, `0b11`,
which no rule writes and whose behaviour R149 gives (92 D3, D19). -/
inductive DState where
  | idle
  | escape
  | high
  | invalid
deriving DecidableEq, Repr

/-- Where the block stands in the admitted order reset, `OPEN`, ticks, `CLOSE` (R186, 92 D6).
MODEL's own: the spec states the order and gives it no register. -/
inductive Phase where
  | constructed
  | opened
  | closed
deriving DecidableEq, Repr

/-- The adapter's bus-direction modes "talk/listen/offline" (R50 to R52, R217). -/
inductive BusDirection where
  | talk
  | listen
  | offline
deriving DecidableEq, Repr

/-- What `transmit_complete()` refers to (R47): nothing yet, in which case its answer is free
(`TXC_BEFORE_FIRST` = `free`, 92 D18); the frame handed over last, still leaving; or that frame, gone. -/
inductive TxLine where
  | unreferenced (answer : Bool)
  | draining (f : Frame)
  | left (f : Frame)
deriving DecidableEq, Repr

/-- The Peripheral Adapter as far as Table R29 names it. -/
structure Adapter where
  /-- The received-frame holding place: "the peripheral holds only one received frame". -/
  rxWaiting : Option Frame
  /-- A frame is in reception and not yet fully received: no item of Table R29, but what R241 speaks of when
  the rate changes meanwhile (log entry 10). -/
  receiving : Bool
  /-- The receive-overrun indication, "no overrun flag consulted": written by the environment, never
  read by the block. -/
  overrun : Bool
  /-- The transmit holding register is not ready to accept a new frame (R46). -/
  txBusy : Bool
  /-- The transmit shift register and line (R47). -/
  line : TxLine
  /-- The configured rate in bit/s (R49), write-only for the block. -/
  rate : Nat
  /-- `start()` and `stop()` (R53, R54), write-only for the block. -/
  enabled : Bool
  /-- The bus-direction mode, write-only for the block. -/
  direction : BusDirection
  /-- `configure()` was called while a frame was draining or in reception: from then on the adapter's state
  is undefined (R241, 93 U4), that is the environment's to choose. MODEL's own. -/
  upset : Bool
deriving DecidableEq, Repr

/-- The Host Port as far as Table R29 names it. -/
structure HostPort where
  /-- Inbound bytes not yet read, oldest first (R57, R58). -/
  inbound : List Byte
  /-- Outbound bytes written and not yet taken by the host, oldest first (R59). -/
  outbound : List Byte
deriving DecidableEq, Repr

/-- The primitives of Table R9, each with its argument or its answer: an entry of a trace (R10). -/
inductive Call where
  | uartRxReady (answer : Bool)
  | uartReceive (v : Frame)
  | uartTxBusy (answer : Bool)
  | uartTxComplete (answer : Bool)
  | uartTransmit (f : Frame)
  | uartConfigure (rate : Nat)
  | enterTalk
  | enterListen
  | enterOffline
  | uartStart
  | uartStop
  | hostAvail (count : Nat)
  | hostRead (b : Byte)
  | hostWrite (b : Byte)
deriving DecidableEq, Repr

/-- One move of the environment (R11, R16, R70). Each move has only the effect the contracts of R44 to
R60 allow (`EnvMove.onAdapter` in Machine/Environment.lean). -/
inductive EnvMove where
  /-- The reception of a frame begins (R241). -/
  | frameBegins
  /-- A frame is fully received and is the waiting one, in place of an earlier one on overrun (R44, R56). -/
  | frameArrives (v : Frame)
  /-- A frame arrives and is the one that is lost (R56, 93 U5). -/
  | frameLost (v : Frame)
  /-- The waiting frame is withdrawn: only an upset adapter may do so (R45, 93 U1, U4). -/
  | frameWithdrawn
  /-- The holding register becomes not ready, or ready (R46). -/
  | holding (busy : Bool)
  /-- The last transmitted frame has fully left the peripheral (R47). -/
  | lineIdle
  /-- The answer of `transmit_complete()` where the contract gives none (92 D18, 93 U4, U10). -/
  | lineAnswer (complete : Bool)
  /-- The rate, the enable state, the direction mode and the overrun indication of an upset adapter are
  whatever they are (93 U4). -/
  | upsetSettings (rate : Nat) (enabled : Bool) (direction : BusDirection) (overrun : Bool)
  /-- The host makes a byte available (R16). -/
  | hostSends (b : Byte)
  /-- The host takes `n` written bytes (R16). -/
  | hostTakes (n : Nat)
deriving DecidableEq, Repr

/-- The environment's moves during one tick: the environment is not frozen (R70), and each query is
answered at the moment of its call. -/
structure TickMoves where
  beforeRxReady : List EnvMove
  beforeTxBusy : List EnvMove
  beforeAvail : List EnvMove
  beforeTxComplete : List EnvMove
deriving DecidableEq, Repr

/-- What the adapter's answers are right after `OPEN`, which the spec leaves open (Table R32,
91 N14, 93 U14). -/
structure AdapterFound where
  rxWaiting : Option Frame
  receiving : Bool
  txBusy : Bool
  txComplete : Bool
deriving DecidableEq, Repr

/-- One operation the outside calls (R11, R184 to R186, R230). An `OPEN` carries the environment's moves
before it and what the adapter's answers are found to be after it. -/
inductive Op where
  | reset
  | openBridge (baud : Nat) (before : List EnvMove) (found : AdapterFound)
  | tick (moves : TickMoves)
  | closeBridge
deriving DecidableEq, Repr

/-- The machine: everything the spec names, and the model's own `phase`, `pending` and `trace`. -/
structure State where
  /-- `DSTATE` (R21). -/
  dstate : DState
  /-- `TALK` (R23): true while the device is driving the bus. -/
  talk : Bool
  /-- MODEL's own (R186). -/
  phase : Phase
  /-- The Peripheral Adapter (Table R29). -/
  adapter : Adapter
  /-- The Host Port (Table R29). -/
  hostPort : HostPort
  /-- MODEL's own: the operations the outside calls next, first one first (R11). -/
  pending : List Op
  /-- MODEL's own: the trace since the last reset, oldest call first (R10, R234). -/
  trace : List Call
deriving DecidableEq, Repr

/-- The block raises no exception, fault or trap (R14, R200): there is no fault, so the type is empty. -/
inductive Fault
deriving DecidableEq, Repr

/-- What the model gives no meaning (R14, R186, 93 U1 to U3, U13). Every one is safe: the model stops
where the spec says a model refuses. -/
inductive Refusal where
  /-- Raised by exec's arm of an instruction that has no meaning yet. Safe. -/
  | notModelled (mnemonic : String)
  /-- Raised by a tick, a sequence or a production before `OPEN` or after `CLOSE` (R121, R186). Safe. -/
  | tickOutsideLifecycle
  /-- Raised by an `OPEN` that does not directly follow a reset (R186). Safe. -/
  | openNotAfterReset
  /-- Raised by a `CLOSE` before `OPEN` or after a `CLOSE` (R186). Safe. -/
  | closeNotOpen
  /-- Raised by an `OPEN` at a rate outside `BAUD_TABLE` (92 D7). Safe. -/
  | rateNotInTable
  /-- Raised by `T.RX` with no frame waiting (93 U1), which the dispatcher never does. Safe. -/
  | receiveNotReady
  /-- Raised by `T.HOST`, or by a sequence that still has a byte to read, with no host byte available
  (93 U2), which the dispatcher never does. Safe. -/
  | readNotAvailable
  /-- Raised by a sequence where the Host Port begins with another byte than its own: what the ticks would
  read is another instruction (log entry 3). Safe. -/
  | sequenceNotInPort
  /-- Raised by a transmit while the holding register is not ready (93 U3), which the dispatcher never
  does. Safe. -/
  | transmitWhileBusy
deriving DecidableEq, Repr

/-- Reset (R32, R230): `DSTATE` = `IDLE`, `TALK` = 0. The spec states no other value: those of the
adapter, the Host Port and the model's own fields are DESIGN CHOICES (log entry 6). -/
def State.reset : State where
  dstate := .idle
  talk := false
  phase := .constructed
  adapter :=
    { rxWaiting := none, receiving := false, overrun := false, txBusy := false, line := .unreferenced false,
      rate := 300, enabled := false, direction := .offline, upset := false }
  hostPort := { inbound := [], outbound := [] }
  pending := []
  trace := []

end Sys2Proof.Machine
end

