-- ==== Sys2Proof/Machine/Ops.lean ====
section
/-!
DEFINITION. The named operations of the machine: one update per field of State, the chaining of
outcomes, the primitives of Table R9 with the contracts of R44 to R59, and the lifecycle guard (R186).
The block has no exception entry and no return from one (R200, R206, R207), so there is no such
operation here: its whole reaction to the one anomaly it can see is the decoder's `DSTATE <- IDLE`
(R147, R149 in Machine/Decoder.lean).
-/

namespace Sys2Proof.Machine

/-! ## One update per field -/

def setDState (d : DState) (s : State) : State := { s with dstate := d }
def setTalk (b : Bool) (s : State) : State := { s with talk := b }
def setPhase (p : Phase) (s : State) : State := { s with phase := p }
def setAdapter (a : Adapter) (s : State) : State := { s with adapter := a }
def setHostPort (h : HostPort) (s : State) : State := { s with hostPort := h }
def setPending (ops : List Op) (s : State) : State := { s with pending := ops }

/-- Add one call to the trace (R10). -/
def record (c : Call) (s : State) : State := { s with trace := s.trace ++ [c] }

/-! ## Chaining -/

/-- Go on from a next state; a fault or a refusal ends it. -/
def andThen (o : Host.Outcome State Fault Refusal) (k : State → Host.Outcome State Fault Refusal) :
    Host.Outcome State Fault Refusal :=
  match o with
  | .next s => k s
  | .fault r => .fault r
  | .refused r => .refused r

/-- Ticks, and what runs inside them, have a meaning only between `OPEN` and `CLOSE` (R121, R186). -/
def whenOpen (s : State) (o : Host.Outcome State Fault Refusal) : Host.Outcome State Fault Refusal :=
  match s.phase with
  | .opened => o
  | .constructed => .refused .tickOutsideLifecycle
  | .closed => .refused .tickOutsideLifecycle

/-! ## The queries: they change nothing but the trace (R65) -/

/-- The answer of `receive_ready()`: "true iff a fully received frame is waiting" (R44). -/
def rxReady (s : State) : Bool := s.adapter.rxWaiting.isSome

/-- The answer of `transmit_busy()` (R46). -/
def txBusy (s : State) : Bool := s.adapter.txBusy

/-- The answer of `available()`: the number of inbound bytes that can be read (R57, 92 D9). -/
def availCount (s : State) : Nat := s.hostPort.inbound.length

/-- What the line makes `transmit_complete()` answer: "true iff the last transmitted frame has fully
left the peripheral" (R47). -/
def lineComplete : TxLine → Bool
  | .unreferenced answer => answer
  | .draining _ => false
  | .left _ => true

/-- The answer of `transmit_complete()` (R47). -/
def txComplete (s : State) : Bool := lineComplete s.adapter.line

def askRxReady (s : State) : State := record (.uartRxReady (rxReady s)) s
def askTxBusy (s : State) : State := record (.uartTxBusy (txBusy s)) s
def askAvail (s : State) : State := record (.hostAvail (availCount s)) s
def askTxComplete (s : State) : State := record (.uartTxComplete (txComplete s)) s

/-! ## The Peripheral Adapter -/

/-- `receive()`: the waiting frame value `v` is returned and consumed (R45). -/
def uartReceive (v : Frame) (s : State) : State :=
  record (.uartReceive v) (setAdapter { s.adapter with rxWaiting := none } s)

/-- `transmit(f)`: the holding register takes `f`, and `transmit_complete()` is false until `f` has
fully left (R47, R48, R248). -/
def enqueueFrame (f : Frame) (s : State) : State :=
  record (.uartTransmit f)
    (setAdapter { s.adapter with txBusy := true, line := .draining f } s)

/-- `transmit(f)` with the caller's guarantee checked: "`transmit_busy()` was false" (R48, 93 U3). -/
def uartTransmit (f : Frame) (s : State) : Host.Outcome State Fault Refusal :=
  match s.adapter.txBusy with
  | true => .refused .transmitWhileBusy
  | false => .next (enqueueFrame f s)

/-- A frame is still on its way out. -/
def isDraining : TxLine → Bool
  | .unreferenced _ => false
  | .draining _ => true
  | .left _ => false

/-- A transmission or a reception is under way: the time at which `configure()` must not be called. -/
def inFlight (a : Adapter) : Bool := isDraining a.line || a.receiving

/-- `configure(rate)`: sets the rate; called while a frame is draining or in reception it leaves the
adapter's state undefined (R49, R241, 93 U4). -/
def uartConfigure (rate : Nat) (s : State) : State :=
  record (.uartConfigure rate)
    (setAdapter { s.adapter with rate := rate, upset := s.adapter.upset || inFlight s.adapter } s)

/-- `enter_talk()` (R50). -/
def enterTalk (s : State) : State :=
  record .enterTalk (setAdapter { s.adapter with direction := .talk } s)

/-- `enter_listen()` (R51). -/
def enterListen (s : State) : State :=
  record .enterListen (setAdapter { s.adapter with direction := .listen } s)

/-- `enter_offline()` (R52): the adapter offers it; no operation of the block calls it. -/
def enterOffline (s : State) : State :=
  record .enterOffline (setAdapter { s.adapter with direction := .offline } s)

/-- `start()` (R53). From here on no frame has been transmitted "since `OPEN`", so the answer of
`transmit_complete()` is free until the first transmit (92 D18). -/
def uartStart (s : State) : State :=
  record .uartStart
    (setAdapter { s.adapter with
      enabled := true, line := .unreferenced (lineComplete s.adapter.line) } s)

/-- The bus-direction mode after `stop()`: offline, or as it was (R52, 91 N9; log entry 31). -/
def directionAfterStop (direction : BusDirection) : BusDirection :=
  if Config.stopGoesOffline then .offline else direction

/-- `stop()` (R54). That the line and the holding places are as they were is a DESIGN CHOICE (log
entry 31): the spec does not say what becomes of a frame that is still draining (R185). -/
def uartStop (s : State) : State :=
  record .uartStop
    (setAdapter { s.adapter with
      enabled := false, direction := directionAfterStop s.adapter.direction } s)

/-! ## The Host Port -/

/-- `read()`: the oldest unread inbound byte `b` is returned and consumed (R58). -/
def hostRead (b : Byte) (s : State) : State :=
  record (.hostRead b) (setHostPort { s.hostPort with inbound := s.hostPort.inbound.tail } s)

/-- `write(b)`: `b` is appended to the outbound stream (R59). -/
def hostWrite (b : Byte) (s : State) : State :=
  record (.hostWrite b) (setHostPort { s.hostPort with outbound := s.hostPort.outbound ++ [b] } s)

/-- `write` called for each byte in order, all in one tick (R60, R67). -/
def hostWrites : List Byte → State → State
  | [], s => s
  | b :: bs, s => hostWrites bs (hostWrite b s)

/-! ## Reset -/

/-- A reset while the machine runs (R230, R231, 92 D5): the block's two registers take their reset
values and no adapter or Host Port operation is called; the run and its trace begin anew. -/
def resetBlock (s : State) : State :=
  { s with dstate := .idle, talk := false, phase := .constructed, trace := [] }

end Sys2Proof.Machine
end

