-- ==== Sys2Proof/Machine/Flags.lean ====
section
/-!
DEFINITION. The only flag, `TALK` (R27): the one place that sets it and the one place that clears it
(R23). There are no arithmetic flags.
-/

namespace Sys2Proof.Machine

/-- The prologue of `T.HOST`: `if TALK = 0 then TALK <- 1; EnterTalk()` (R113). -/
def seizeBus (s : State) : State :=
  match s.talk with
  | true => s
  | false => enterTalk (setTalk true s)

/-- The body of `T.REL`: `if TALK = 1 then TALK <- 0; EnterListen()` (R114). -/
def releaseBus (s : State) : State :=
  match s.talk with
  | true => enterListen (setTalk false s)
  | false => s

end Sys2Proof.Machine
end

