-- ==== Sys2Proof/Machine/Operands.lean ====
section
/-!
DEFINITION. The whole arithmetic of the block (R93): the side-channel bit and the data bits of a frame
value (R8, R62), the two ways a frame value is assembled (R86), the operand of a baud-select code
(R87), and the bit encodings of the two registers (R22, R24). Nothing can overflow or wrap.
-/

namespace Sys2Proof.Machine

/-- `v[8]`, the side-channel bit of a frame value (R8). -/
def sideBit (v : Frame) : Bool := v.getLsbD 8

/-- `v[7:0]`, the data bits: "the low 8 bits" (R8, R86). -/
def dataBits (v : Frame) : Byte := v.setWidth 8

/-- `zext_9(b)` = `{0, b}`: the side-channel bit clear (R8, R86). -/
def plainFrame (b : Byte) : Frame := b.setWidth 9

/-- `{1, b}` = `0x100 + b` = `0x100 OR b`: the side-channel bit set (R86, R93). -/
def highFrame (b : Byte) : Frame := 0x100#9 ||| b.setWidth 9

/-- The index `i = c[3:0]` of a baud-select code, valid exactly when `0x10 <= c <= 0x19` (R87). -/
def baudIndex (c : Byte) : Option Nat :=
  if 0x10 ≤ c.toNat ∧ c.toNat ≤ 0x19 then some (c &&& 0x0F#8).toNat else none

/-- The rate in bit/s that a control byte selects: `BAUD_TABLE[c[3:0]]` (R87, R146). -/
def baudRate (c : Byte) : Option Nat :=
  match baudIndex c with
  | some i => Config.baudTable[i]?
  | none => none

/-- `DSTATE` in two bits (R22, 92 D3). -/
def dstateBits : DState → BitVec 2
  | .idle => 0b00#2
  | .escape => 0b01#2
  | .high => 0b10#2
  | .invalid => 0b11#2

/-- The value of `DSTATE` that two bits name (R22). -/
def dstateOfBits (b : BitVec 2) : DState :=
  if b = 0b00#2 then .idle
  else if b = 0b01#2 then .escape
  else if b = 0b10#2 then .high
  else .invalid

/-- `TALK` in one bit, 1 for true (R24, 92 D4). -/
def talkBit (talk : Bool) : BitVec 1 := if talk then 1#1 else 0#1

/-- How far into a sequence `DSTATE` says the decoder is (R26): at a boundary, one byte in, two in.
The invalid value names no position. -/
def bytesAlreadyRead : DState → Nat
  | .idle => 0
  | .escape => 1
  | .high => 2
  | .invalid => 0

end Sys2Proof.Machine
end

