-- ==== Sys2Proof/Machine/Decoder.lean ====
section
/-!
DEFINITION. The host-to-UART decoder (42_host_to_uart_decoder.md): `Decode(b)` of R140 first as a
function of `DSTATE` and the byte, then on the machine, then over a whole byte stream (the decoder a
host runs on the outbound stream is the same one with another sink, R137).
-/

namespace Sys2Proof.Machine

/-- The one call `Decode` may make (R140). -/
inductive UartCommand where
  | transmit (f : Frame)
  | configure (rate : Nat)
deriving DecidableEq, Repr

/-- State `IDLE` (R141, R142). -/
def decodeIdle (b : Byte) : DState × Option UartCommand :=
  if b = Config.esc then (.escape, none)
  else (.idle, some (.transmit (plainFrame b)))

/-- State `ESCAPE` (R143 to R147). -/
def decodeEscape (b : Byte) : DState × Option UartCommand :=
  if b = Config.high then (.high, none)
  else if b = Config.esc then (.idle, some (.transmit (plainFrame b)))
  else match baudRate b with
    | some rate => (.idle, some (.configure rate))
    | none => (.idle, none)

/-- State `HIGH` (R148): the byte is not examined. -/
def decodeHigh (b : Byte) : DState × Option UartCommand :=
  (.idle, some (.transmit (highFrame b)))

/-- Any other value of `DSTATE` (R149): the byte is dropped. -/
def decodeInvalid (_b : Byte) : DState × Option UartCommand := (.idle, none)

/-- `Decode(b)` as a function: the next `DSTATE` and the call made, if any (R140, Table R150). -/
def decoderStep : DState → Byte → DState × Option UartCommand
  | .idle, b => decodeIdle b
  | .escape, b => decodeEscape b
  | .high, b => decodeHigh b
  | .invalid, b => decodeInvalid b

/-- Make the call (R48, R49). -/
def issue : Option UartCommand → State → Host.Outcome State Fault Refusal
  | none, s => .next s
  | some (.transmit f), s => uartTransmit f s
  | some (.configure rate), s => .next (uartConfigure rate s)

/-- `Decode(b)` on the machine: the call, then the assignment to `DSTATE` (R67, R140). -/
def decodeByte (b : Byte) (s : State) : Host.Outcome State Fault Refusal :=
  andThen (issue (decoderStep s.dstate b).2 s)
    fun t => .next (setDState (decoderStep s.dstate b).1 t)

/-- The body of `T.HOST` for the byte `b` (R113): the read, the `TALK` prologue, the decoder. -/
def hostByte (b : Byte) (s : State) : Host.Outcome State Fault Refusal :=
  decodeByte b (seizeBus (hostRead b s))

/-- The body of `T.HOST` where the byte it reads is to be `b`. Nothing can be read from an empty Host Port
(R58, 93 U2); where another byte stands first the sequence asked for is not what would be read, and it is
refused (DESIGN CHOICE, log entry 3). -/
def expectByte (b : Byte) (s : State) : Host.Outcome State Fault Refusal :=
  match s.hostPort.inbound with
  | [] => .refused .readNotAvailable
  | c :: _ => if c = b then hostByte b s else .refused .sequenceNotInPort

/-- `T.HOST` ticks that read the given bytes, one after another (R156). -/
def hostBytes : List Byte → State → Host.Outcome State Fault Refusal
  | [], s => .next s
  | b :: bs, s => andThen (expectByte b s) (hostBytes bs)

/-- The decoder over a byte stream: where it ends and the calls it makes, in order (R68, R137). -/
def runDecoder : DState → List Byte → DState × List UartCommand
  | d, [] => (d, [])
  | d, b :: bs =>
    let after := runDecoder (decoderStep d b).1 bs
    (after.1, (decoderStep d b).2.toList ++ after.2)

end Sys2Proof.Machine
end

