-- ==== Sys2Proof/Machine/Sequences.lean ====
section
/-!
DEFINITION. The meanings of the host-to-device data sequences `DATA`, `DATAFF`, `HIGH`, `ILLEGAL`
(R151 to R154). A sequence of `n` bytes is executed by the `n` ticks of branch `T.HOST` that read it
(R156): each reads one byte, runs the `TALK` prologue and the decoder. From `DSTATE` = `IDLE` these are
all its bytes; where `DSTATE` says the decoder is already inside the sequence (R26), the bytes it has
not read yet (log entry 3). The bytes are read from the Host Port: where it does not hold them, the
sequence is refused (R58, 93 U2; log entries 3 and 28).
-/

namespace Sys2Proof.Machine

/-- The bytes of a sequence that the decoder, at the position `DSTATE` gives, still has to read. A
decoder that is not inside this sequence reads all of it, whatever it makes of the bytes (R209). -/
def sequenceRest (i : Instr) (d : DState) : List Byte :=
  if bytesAlreadyRead d < (encode i).length then (encode i).drop (bytesAlreadyRead d) else encode i

/-- The ticks that read what is left of the sequence, which the Host Port must hold (log entry 3). -/
def runSequence (i : Instr) (s : State) : Host.Outcome State Fault Refusal :=
  whenOpen s (hostBytes (sequenceRest i s.dstate) s)

/-- `DATA dd` (R151). -/
def execData (dd : Byte) (s : State) : Host.Outcome State Fault Refusal := runSequence (.data dd) s

/-- `DATAFF` (R152). -/
def execDataff (s : State) : Host.Outcome State Fault Refusal := runSequence .dataff s

/-- `HIGH dd` (R153). -/
def execHigh (dd : Byte) (s : State) : Host.Outcome State Fault Refusal := runSequence (.high dd) s

/-- `ILLEGAL cc` (R154): both bytes are consumed and nothing is sent. -/
def execIllegal (cc : Byte) (s : State) : Host.Outcome State Fault Refusal :=
  runSequence (.illegal cc) s

end Sys2Proof.Machine
end

