-- ==== Sys2Proof/Machine/Baud.lean ====
section
/-!
DEFINITION. The meanings of the ten baud-select sequences (R170 to R180): the bytes `FF 10` to `FF 19`,
read by two `T.HOST` ticks, the second of which calls `UartConfigure` with the rate of the row. No frame
is transmitted, nothing is written to the host, and the block keeps no copy of the rate (R28, R170).
-/

namespace Sys2Proof.Machine

/-- `BAUD0` (R171): bytes `FF 10`, `UartConfigure(300)`. -/
def execBaud0 (s : State) : Host.Outcome State Fault Refusal := runSequence .baud0 s

/-- `BAUD1` (R172): bytes `FF 11`, `UartConfigure(600)`. -/
def execBaud1 (s : State) : Host.Outcome State Fault Refusal := runSequence .baud1 s

/-- `BAUD2` (R173): bytes `FF 12`, `UartConfigure(1200)`. -/
def execBaud2 (s : State) : Host.Outcome State Fault Refusal := runSequence .baud2 s

/-- `BAUD3` (R174): bytes `FF 13`, `UartConfigure(2400)`. -/
def execBaud3 (s : State) : Host.Outcome State Fault Refusal := runSequence .baud3 s

/-- `BAUD4` (R175): bytes `FF 14`, `UartConfigure(4800)`. -/
def execBaud4 (s : State) : Host.Outcome State Fault Refusal := runSequence .baud4 s

/-- `BAUD5` (R176): bytes `FF 15`, `UartConfigure(9600)`. -/
def execBaud5 (s : State) : Host.Outcome State Fault Refusal := runSequence .baud5 s

/-- `BAUD6` (R177): bytes `FF 16`, `UartConfigure(19200)`. -/
def execBaud6 (s : State) : Host.Outcome State Fault Refusal := runSequence .baud6 s

/-- `BAUD7` (R178): bytes `FF 17`, `UartConfigure(38400)`. -/
def execBaud7 (s : State) : Host.Outcome State Fault Refusal := runSequence .baud7 s

/-- `BAUD8` (R179): bytes `FF 18`, `UartConfigure(57600)`. -/
def execBaud8 (s : State) : Host.Outcome State Fault Refusal := runSequence .baud8 s

/-- `BAUD9` (R180): bytes `FF 19`, `UartConfigure(115200)`. -/
def execBaud9 (s : State) : Host.Outcome State Fault Refusal := runSequence .baud9 s

end Sys2Proof.Machine
end

