-- ==== Sys2Proof/Machine/Encoder.lean ====
section
/-!
DEFINITION. The UART-to-host encoder (41_uart_to_host_encoder.md): `Encode(v)` of R130 and the meanings
of its three productions `ENC.HIGH`, `ENC.ESC`, `ENC.LIT`. A production is what branch `T.RX` writes
for the frame it has just received, so it too has a meaning only between `OPEN` and `CLOSE` (R121).
-/

namespace Sys2Proof.Machine

/-- The bytes `Encode(v)` writes, the side-channel bit tested first (R130, R136). -/
def encodeFrame (v : Frame) : List Byte :=
  if sideBit v then [Config.esc, Config.high, dataBits v]
  else if dataBits v = Config.esc then [Config.esc, dataBits v]
  else [dataBits v]

/-- `ENC.HIGH dd` (R131): `HostWrite(0xFF); HostWrite(0x01); HostWrite(dd)`. -/
def execEncHigh (dd : Byte) (s : State) : Host.Outcome State Fault Refusal :=
  whenOpen s (.next (hostWrites [Config.esc, Config.high, dd] s))

/-- `ENC.ESC` (R132): `HostWrite(0xFF); HostWrite(0xFF)`. -/
def execEncEsc (s : State) : Host.Outcome State Fault Refusal :=
  whenOpen s (.next (hostWrites [Config.esc, Config.esc] s))

/-- `ENC.LIT dd` (R133): `HostWrite(dd)`. -/
def execEncLit (dd : Byte) (s : State) : Host.Outcome State Fault Refusal :=
  whenOpen s (.next (hostWrites [dd] s))

end Sys2Proof.Machine
end

