-- ==== Sys2Proof/Machine/Lifecycle.lean ====
section
/-!
DEFINITION. The meanings of the two lifecycle operations (R184, R185) in the admitted order (R186).
-/

namespace Sys2Proof.Machine

/-- `OPEN(baud)` (R184): `UartConfigure(baud); UartStart(); EnterListen()`, in this order (92 D15).
`DSTATE` and `TALK` are not touched. A rate outside `BAUD_TABLE` is outside the model (92 D7), and an
`OPEN` that does not directly follow a reset is refused (R186). -/
def execOpenBridge (baud : Nat) (s : State) : Host.Outcome State Fault Refusal :=
  match s.phase with
  | .constructed =>
    if Config.baudTable.contains baud then
      .next (setPhase .opened (enterListen (uartStart (uartConfigure baud s))))
    else .refused .rateNotInTable
  | .opened => .refused .openNotAfterReset
  | .closed => .refused .openNotAfterReset

/-- `CLOSE` (R185): `UartStop()`. `DSTATE` and `TALK` keep their values (92 D20); what `stop()` does to the
bus-direction mode is left open (log entry 31). -/
def execCloseBridge (s : State) : Host.Outcome State Fault Refusal :=
  match s.phase with
  | .opened => .next (setPhase .closed (uartStop s))
  | .constructed => .refused .closeNotOpen
  | .closed => .refused .closeNotOpen

end Sys2Proof.Machine
end

