-- ==== Sys2Proof/Machine/Tick.lean ====
section
/-!
DEFINITION. The meanings of the five branches of a tick (R111 to R115). The dispatcher that selects one
of them, with its queries, is Machine/Poll.lean.
-/

namespace Sys2Proof.Machine

/-- `T.RX` (R111): `v <- UartReceive(); Encode(v)`. Called with no frame waiting, which the dispatcher
never does, it is refused (93 U1). -/
def execTRx (s : State) : Host.Outcome State Fault Refusal :=
  whenOpen s
    (match s.adapter.rxWaiting with
      | none => .refused .receiveNotReady
      | some v => .next (hostWrites (encodeFrame v) (uartReceive v s)))

/-- `T.BUSY` (R112): `skip`. -/
def execTBusy (s : State) : Host.Outcome State Fault Refusal := whenOpen s (.next s)

/-- `T.HOST` (R113): `b <- HostRead(); if TALK = 0 then (TALK <- 1; EnterTalk()); Decode(b)`. Called
with no byte available, which the dispatcher never does, it is refused (93 U2). -/
def execTHost (s : State) : Host.Outcome State Fault Refusal :=
  whenOpen s
    (match s.hostPort.inbound with
      | [] => .refused .readNotAvailable
      | b :: _ => hostByte b s)

/-- `T.REL` (R114): `if TALK = 1 then (TALK <- 0; EnterListen())`. -/
def execTRel (s : State) : Host.Outcome State Fault Refusal := whenOpen s (.next (releaseBus s))

/-- `T.IDLE` (R115): `skip`. -/
def execTIdle (s : State) : Host.Outcome State Fault Refusal := whenOpen s (.next s)

end Sys2Proof.Machine
end

