-- ==== Sys2Proof/Machine/Dispatch.lean ====
section
/-! DEFINITION. exec: one arm per instruction, each one direct call of its meaning. -/

namespace Sys2Proof.Machine

def exec (i : Instr) (s : State) : Host.Outcome State Fault Refusal :=
  match i with
  -- host-to-device sequences (Machine/Sequences.lean, Machine/Baud.lean)
  | .data dd => Sys2Proof.Machine.execData dd s
  | .dataff => Sys2Proof.Machine.execDataff s
  | .high dd => Sys2Proof.Machine.execHigh dd s
  | .baud0 => Sys2Proof.Machine.execBaud0 s
  | .baud1 => Sys2Proof.Machine.execBaud1 s
  | .baud2 => Sys2Proof.Machine.execBaud2 s
  | .baud3 => Sys2Proof.Machine.execBaud3 s
  | .baud4 => Sys2Proof.Machine.execBaud4 s
  | .baud5 => Sys2Proof.Machine.execBaud5 s
  | .baud6 => Sys2Proof.Machine.execBaud6 s
  | .baud7 => Sys2Proof.Machine.execBaud7 s
  | .baud8 => Sys2Proof.Machine.execBaud8 s
  | .baud9 => Sys2Proof.Machine.execBaud9 s
  | .illegal cc => Sys2Proof.Machine.execIllegal cc s
  -- device-to-host productions (Machine/Encoder.lean)
  | .encLit dd => Sys2Proof.Machine.execEncLit dd s
  | .encEsc => Sys2Proof.Machine.execEncEsc s
  | .encHigh dd => Sys2Proof.Machine.execEncHigh dd s
  -- the branches of a tick (Machine/Tick.lean)
  | .tRx => Sys2Proof.Machine.execTRx s
  | .tBusy => Sys2Proof.Machine.execTBusy s
  | .tHost => Sys2Proof.Machine.execTHost s
  | .tRel => Sys2Proof.Machine.execTRel s
  | .tIdle => Sys2Proof.Machine.execTIdle s
  -- lifecycle operations (Machine/Lifecycle.lean)
  | .openBridge baud => Sys2Proof.Machine.execOpenBridge baud s
  | .closeBridge => Sys2Proof.Machine.execCloseBridge s

end Sys2Proof.Machine
end

