-- ==== Sys2Proof/Machine/Environment.lean ====
section
/-!
DEFINITION. The environment's moves (R11, R16, R70), each with the effect the contracts of R44 to R60
allow it and no other: a move the contract forbids in a state changes nothing there, which is the
environment not making it. A run of the model is thus exactly a run of some environment that meets
its contracts (92 D8, D22).
-/

namespace Sys2Proof.Machine

/-- What a move does to the adapter. -/
def adapterAfterMove (a : Adapter) : EnvMove → Adapter
  | .frameBegins => { a with receiving := true }
  | .frameArrives v =>
    { a with
      rxWaiting := some v, receiving := false, overrun := a.overrun || a.rxWaiting.isSome }
  | .frameLost _ => { a with receiving := false, overrun := a.overrun || a.rxWaiting.isSome }
  | .frameWithdrawn => { a with rxWaiting := if a.upset then none else a.rxWaiting }
  | .holding busy => { a with txBusy := busy }
  | .lineIdle =>
    { a with line := match a.line with
        | .draining f => .left f
        | .left f => .left f
        | .unreferenced answer => .unreferenced answer }
  | .lineAnswer complete =>
    { a with line := match a.line with
        | .unreferenced _ => .unreferenced complete
        | .draining f => if a.upset then .unreferenced complete else .draining f
        | .left f => if a.upset then .unreferenced complete else .left f }
  | .upsetSettings rate enabled direction overrun =>
    if a.upset then
      { a with rate := rate, enabled := enabled, direction := direction, overrun := overrun }
    else a
  | .hostSends _ => a
  | .hostTakes _ => a

/-- What a move does to the Host Port. -/
def hostPortAfterMove (h : HostPort) : EnvMove → HostPort
  | .hostSends b => { h with inbound := h.inbound ++ [b] }
  | .hostTakes n => { h with outbound := h.outbound.drop n }
  | .frameBegins | .frameArrives _ | .frameLost _ | .frameWithdrawn => h
  | .holding _ | .lineIdle | .lineAnswer _ | .upsetSettings _ _ _ _ => h

/-- One move. The environment reads and writes nothing of the block (R25, R30). -/
def envMove (m : EnvMove) (s : State) : State :=
  { s with adapter := adapterAfterMove s.adapter m, hostPort := hostPortAfterMove s.hostPort m }

/-- Moves in order. -/
def envMoves : List EnvMove → State → State
  | [], s => s
  | m :: ms, s => envMoves ms (envMove m s)

/-- A move that the contract still allows once `transmit_busy()` has answered false in this tick: the
holding register does not turn busy again before the call it guards (93 U3). -/
def allowedAfterGuard : EnvMove → Bool
  | .holding busy => !busy
  | .frameBegins | .frameArrives _ | .frameLost _ | .frameWithdrawn => true
  | .lineIdle | .lineAnswer _ | .upsetSettings _ _ _ _ => true
  | .hostSends _ | .hostTakes _ => true

/-- The moves between the busy guard and the end of the polling. -/
def envMovesAfterGuard (ms : List EnvMove) (s : State) : State :=
  envMoves (ms.filter allowedAfterGuard) s

/-- What `OPEN` leaves of the adapter's answers, which the spec does not say (Table R32, 93 U14). -/
def adapterFound (found : AdapterFound) (s : State) : State :=
  setAdapter { s.adapter with
    rxWaiting := found.rxWaiting, receiving := found.receiving, txBusy := found.txBusy,
    line := .unreferenced found.txComplete } s

end Sys2Proof.Machine
end

