-- ==== Sys2Proof/Machine/Poll.lean ====
section
/-!
DEFINITION. The dispatcher `Tick()` up to the branch it selects (R110, R116, Table R116): the four
queries in strict priority, each made only if every one before it answered false, with the
environment's moves before each (R70); and what one step of the machine runs, given the operation the
outside calls next.
-/

namespace Sys2Proof.Machine

/-- The fourth query: branch 4 or branch 5. -/
def pollTxComplete (m : TickMoves) (s : State) : Instr × State :=
  let s' := envMovesAfterGuard m.beforeTxComplete s
  (if txComplete s' then .tRel else .tIdle, askTxComplete s')

/-- The third query: branch 3, or on. -/
def pollAvail (m : TickMoves) (s : State) : Instr × State :=
  let s' := envMovesAfterGuard m.beforeAvail s
  if 1 ≤ availCount s' then (.tHost, askAvail s') else pollTxComplete m (askAvail s')

/-- The second query: branch 2, or on. -/
def pollTxBusy (m : TickMoves) (s : State) : Instr × State :=
  let s' := envMoves m.beforeTxBusy s
  if txBusy s' then (.tBusy, askTxBusy s') else pollAvail m (askTxBusy s')

/-- The first query: branch 1, or on. The answer is the selected branch and the state in which it
starts. -/
def poll (m : TickMoves) (s : State) : Instr × State :=
  let s' := envMoves m.beforeRxReady s
  if rxReady s' then (.tRx, askRxReady s') else pollTxBusy m (askRxReady s')

/-- What one step does: hold or reset without running an instruction, or run one and then take what the
environment is found to be. -/
inductive Selected where
  | plain (t : State)
  | run (i : Instr) (t : State) (found : Option AdapterFound)
deriving DecidableEq, Repr

/-- The next operation the outside calls. With none, the block holds its state (R30, R233). -/
def select (s : State) : Selected :=
  match s.pending with
  | [] => .plain s
  | .reset :: ops => .plain (resetBlock (setPending ops s))
  | .openBridge baud before found :: ops =>
    .run (.openBridge baud) (envMoves before (setPending ops s)) (some found)
  | .tick m :: ops =>
    .run (poll m (setPending ops s)).1 (poll m (setPending ops s)).2 none
  | .closeBridge :: ops => .run .closeBridge (setPending ops s) none

/-- What the environment is found to be after the instruction. -/
def settle : Option AdapterFound → State → State
  | none, s => s
  | some found, s => adapterFound found s

/-- A tick during which the environment does nothing. -/
def quietTick : Op :=
  .tick { beforeRxReady := [], beforeTxBusy := [], beforeAvail := [], beforeTxComplete := [] }

/-- The value of `DSTATE` once `n` bytes of a sequence have been read (R26). -/
def dstateAfterBytes : Nat → DState
  | 0 => .idle
  | 1 => .escape
  | _ => .high

/-- The bridge open and polling, the decoder inside the given sequence with its last byte waiting in the
Host Port, no received frame waiting, the transmitter free and a tick called: the next step runs the
sequence's instruction. -/
def placeSequence (i : Instr) (s : State) : State :=
  let read := (encode i).length - 1
  { s with
    phase := .opened
    dstate := dstateAfterBytes read
    adapter := { s.adapter with rxWaiting := none, txBusy := false }
    hostPort := { s.hostPort with inbound := (encode i).drop read ++ s.hostPort.inbound }
    pending := quietTick :: s.pending }

/-- A table word placed so; a word that is no sequence changes nothing. -/
def placeTableWord (nbits w : Nat) (s : State) : State :=
  match decodeTableWord nbits w with
  | some i => placeSequence i s
  | none => s

end Sys2Proof.Machine
end

