-- ==== Sys2Proof/Machine/Step.lean ====
section
/-!
DEFINITION. One step of the machine: one operation the outside calls (a tick, `OPEN`, `CLOSE`, a
reset), each one atomic (R66, 92 D1).
-/

namespace Sys2Proof.Machine

/-- Run the operation the outside calls next. -/
def step (s : State) : Host.Outcome State Fault Refusal :=
  match select s with
  | .plain t => .next t
  | .run i t found => andThen (exec i t) fun u => .next (settle found u)

/-- The state in which the next step runs the instruction of a table word (log entry 4). -/
def State.withFetchWord (s : State) (nbits w : Nat) : State := placeTableWord nbits w s

end Sys2Proof.Machine
end

