-- ==== Sys2Proof/Safety.lean ====
section
/-!
DEFINITION. The terms claims are stated in: what is observed of a run (the trace and what it says of
each stream, R10, R234), the calls an instruction adds to it, and the invariants of a run. A run is
safe when each of these invariants holds at reset and after every step.
-/

namespace Sys2Proof.Machine

/-! ## Reading a trace -/

/-- The four queries (R10). -/
def Call.isQuery : Call → Bool
  | .uartRxReady _ | .uartTxBusy _ | .uartTxComplete _ | .hostAvail _ => true
  | .uartReceive _ | .uartTransmit _ | .uartConfigure _ => false
  | .enterTalk | .enterListen | .enterOffline => false
  | .uartStart | .uartStop | .hostRead _ | .hostWrite _ => false

/-- The action trace: the trace with the four queries removed (R10). -/
def actionTrace (cs : List Call) : List Call := cs.filter fun c => !c.isQuery

/-- The bytes read from the host, in order. -/
def bytesRead (cs : List Call) : List Byte :=
  cs.filterMap fun c => match c with
    | .hostRead b => some b
    | _ => none

/-- The bytes written to the host, in order. -/
def bytesWritten (cs : List Call) : List Byte :=
  cs.filterMap fun c => match c with
    | .hostWrite b => some b
    | _ => none

/-- The frames received from the UART, in order. -/
def framesReceived (cs : List Call) : List Frame :=
  cs.filterMap fun c => match c with
    | .uartReceive v => some v
    | _ => none

/-- The frames handed to the UART and the rates set, in order. -/
def uartCommands (cs : List Call) : List UartCommand :=
  cs.filterMap fun c => match c with
    | .uartTransmit f => some (.transmit f)
    | .uartConfigure rate => some (.configure rate)
    | _ => none

/-- The bus-direction calls, in order. -/
def directionCalls (cs : List Call) : List BusDirection :=
  cs.filterMap fun c => match c with
    | .enterTalk => some .talk
    | .enterListen => some .listen
    | .enterOffline => some .offline
    | _ => none

/-- No two neighbours are equal. -/
def alternates : List BusDirection → Bool
  | [] => true
  | [_] => true
  | a :: b :: rest => a != b && alternates (b :: rest)

/-! ## The calls an instruction adds -/

/-- What the `TALK` prologue calls (R113). -/
def seizeCalls (talk : Bool) : List Call := if talk then [] else [.enterTalk]

/-- What the body of `T.REL` calls (R114). -/
def releaseCalls (talk : Bool) : List Call := if talk then [.enterListen] else []

/-- The call of a decoder command, if there is one (R140). -/
def commandCalls : Option UartCommand → List Call
  | none => []
  | some (.transmit f) => [.uartTransmit f]
  | some (.configure rate) => [.uartConfigure rate]

/-- The adapter after the `TALK` prologue (R50, R113). -/
def seizedAdapter (s : State) : Adapter :=
  if s.talk then s.adapter else { s.adapter with direction := .talk }

/-- The adapter after `UartTransmit(f)` (R47, R48). -/
def transmitting (f : Frame) (a : Adapter) : Adapter := { a with txBusy := true, line := .draining f }

/-- The adapter after `UartConfigure(rate)` (R49, 93 U4). -/
def configured (rate : Nat) (a : Adapter) : Adapter :=
  { a with rate := rate, upset := a.upset || inFlight a }

/-- The bus-direction mode that `TALK` stands for (R31). -/
def directionOf (talk : Bool) : BusDirection := if talk then .talk else .listen

/-- The bus-direction mode in each phase: `CLOSE` leaves what `stop()` makes of it (log entry 31). -/
def modeIn (phase : Phase) (talk : Bool) : BusDirection :=
  match phase with
  | .constructed => directionOf talk
  | .opened => directionOf talk
  | .closed => directionAfterStop (directionOf talk)

/-! ## The selection table -/

/-- The branch of a row of Table R116. -/
def selectedBranch (rr tb : Bool) (av : Nat) (tc : Bool) : Instr :=
  match rr, tb, av, tc with
  | true, _, _, _ => .tRx
  | false, true, _, _ => .tBusy
  | false, false, _ + 1, _ => .tHost
  | false, false, 0, true => .tRel
  | false, false, 0, false => .tIdle

/-- The queries of a row of Table R116, with their answers. -/
def queriesMade (rr tb : Bool) (av : Nat) (tc : Bool) : List Call :=
  match rr, tb, av with
  | true, _, _ => [.uartRxReady true]
  | false, true, _ => [.uartRxReady false, .uartTxBusy true]
  | false, false, n + 1 => [.uartRxReady false, .uartTxBusy false, .hostAvail (n + 1)]
  | false, false, 0 => [.uartRxReady false, .uartTxBusy false, .hostAvail 0, .uartTxComplete tc]

/-- `n` ticks of branch `T.HOST`, one after another. -/
def tHostTimes : Nat → State → Host.Outcome State Fault Refusal
  | 0, s => .next s
  | n + 1, s => andThen (exec .tHost s) (tHostTimes n)

/-- The step runs a tick that selects the given branch. -/
def TickSelects (s : State) (i : Instr) : Prop :=
  ∃ m ops, s.pending = .tick m :: ops ∧ (poll m (setPending ops s)).1 = i

/-- Two states that nothing the block can ask tells apart: they differ at most in what the block writes
and never reads (Table R29's write-only items, the overrun indication, the trace). -/
structure SameAnswers (s s' : State) : Prop where
  dstate : s'.dstate = s.dstate
  talk : s'.talk = s.talk
  phase : s'.phase = s.phase
  pending : s'.pending = s.pending
  inbound : s'.hostPort.inbound = s.hostPort.inbound
  rxWaiting : s'.adapter.rxWaiting = s.adapter.rxWaiting
  txBusy : s'.adapter.txBusy = s.adapter.txBusy
  line : s'.adapter.line = s.adapter.line
  receiving : s'.adapter.receiving = s.adapter.receiving
  upset : s'.adapter.upset = s.adapter.upset

/-! ## The invariants of a run -/

/-- Before `OPEN` the run has called nothing and the registers are as reset left them (R230). -/
structure FreshInv (s : State) : Prop where
  dstate : s.phase = .constructed → s.dstate = .idle
  talk : s.phase = .constructed → s.talk = false
  trace : s.phase = .constructed → s.trace = []

/-- `TALK` is 1 exactly when the last bus-direction call was `EnterTalk()`, the calls alternate, and the
first is the `EnterListen()` of `OPEN` (R31, R181). The adapter's mode is the one called for, but in an
upset adapter (93 U4; log entry 10) and for what `stop()` makes of it (log entry 31). -/
structure DirectionInv (s : State) : Prop where
  fresh : FreshInv s
  mode : s.phase ≠ .constructed → s.adapter.upset = false →
    s.adapter.direction = modeIn s.phase s.talk
  last : s.phase ≠ .constructed → (directionCalls s.trace).getLast? = some (directionOf s.talk)
  first : s.phase ≠ .constructed → (directionCalls s.trace).head? = some .listen
  alternating : alternates (directionCalls s.trace) = true
  noOffline : Call.enterOffline ∉ s.trace

/-- `DSTATE` and the UART commands of a run are what the decoder, started in `IDLE` on the bytes read
from the host, gives; the command before them is the `UartConfigure` of `OPEN` (R68, R140, R184). -/
structure DecoderInv (s : State) : Prop where
  fresh : FreshInv s
  position : s.dstate = (runDecoder .idle (bytesRead s.trace)).1
  commands : s.phase ≠ .constructed → ∃ baud ∈ Config.baudTable,
    uartCommands s.trace = .configure baud :: (runDecoder .idle (bytesRead s.trace)).2

/-- The bytes written to the host are the encodings of the frames received, in order, whole (R60, R68,
R137). -/
def OutboundInv (s : State) : Prop :=
  bytesWritten s.trace = (framesReceived s.trace).flatMap encodeFrame

/-- The peripheral is enabled between `OPEN` and `CLOSE`, disabled after `CLOSE`, and from `OPEN` on at a
rate of the table (R49, R53, R54), but in an upset adapter, whose state is undefined (93 U4; log
entry 10). -/
structure PeripheralInv (s : State) : Prop where
  enabledWhenOpen : s.phase = .opened → s.adapter.upset = false → s.adapter.enabled = true
  disabledWhenClosed : s.phase = .closed → s.adapter.upset = false → s.adapter.enabled = false
  rate : s.phase ≠ .constructed → s.adapter.upset = false → s.adapter.rate ∈ Config.baudTable

/-- A safe run: every invariant together. -/
structure SafeState (s : State) : Prop where
  direction : DirectionInv s
  decoder : DecoderInv s
  outbound : OutboundInv s
  peripheral : PeripheralInv s
  valid : s.dstate ≠ .invalid

end Sys2Proof.Machine
end

