-- ==== Sys2Proof/Certificates/Slice0/Obligations.lean ====
section
/-!
DEFINITION. The statements for the provers (OBLIGATIONS.json lists them). A result statement gives the
whole next state, so that it says at once that the instruction completes, what it writes and that
everything else is as before; the block has no addressable memory (R40), so a frame speaks of the two
registers, the two collaborators and the trace.
-/

open Sys2Proof Sys2Proof.Machine

/-! ## The wire format -/

/-- Decode and encode agree for every well-formed instruction that has an encoding, in both directions,
with every operand the encoding admits and whatever bytes follow (R80 to R86, R94). -/
def Obligations.DecodeGivesBackEncodedInstruction : Prop :=
  ∀ (i : Instr) (dir : Direction) (rest : List Byte),
    i.wf = true → i.direction = some dir → decode dir (encode i ++ rest) = .ok (i, rest)

/-- The other way: what the decoder reads is well-formed, of the wanted direction, and its bytes are the
ones that were read. -/
def Obligations.EncodeGivesBackDecodedBytes : Prop :=
  ∀ (dir : Direction) (bs rest : List Byte) (i : Instr),
    decode dir bs = .ok (i, rest) →
      i.wf = true ∧ i.direction = some dir ∧ bs = encode i ++ rest

/-- R85: every host-to-device stream is well-formed sequences followed by at most a cut-short tail `FF`
or `FF 01`. -/
def Obligations.HostStreamSplitsIntoSequencesAndTail : Prop :=
  ∀ (bs : List Byte),
    bs = assemble (decodeStream .hostToDevice bs.length bs).1
        ++ (decodeStream .hostToDevice bs.length bs).2 ∧
      (∀ i ∈ (decodeStream .hostToDevice bs.length bs).1,
        i.wf = true ∧ i.direction = some .hostToDevice) ∧
      ((decodeStream .hostToDevice bs.length bs).2 = [] ∨
        (decodeStream .hostToDevice bs.length bs).2 = [0xFF#8] ∨
        (decodeStream .hostToDevice bs.length bs).2 = [0xFF#8, 0x01#8])

/-- R85, R137: the bytes the device writes for any frames split, device to host, into exactly their
productions, with no tail. -/
def Obligations.DeviceStreamSplitsIntoProductions : Prop :=
  ∀ (vs : List Frame),
    decodeStream .deviceToHost (vs.flatMap encodeFrame).length (vs.flatMap encodeFrame)
      = (vs.map productionOf, [])

/-- Words written out from Table R80 and Table R88, and what each stands for (byte 0 most significant:
log entry 1). -/
def Obligations.WrittenOutWordsDecode : Prop :=
  decodeTableWord 8 0b01000001 = some (.data 0x41#8) ∧
  decodeTableWord 16 0b1111111111111111 = some .dataff ∧
  decodeTableWord 24 0b111111110000000110101010 = some (.high 0xAA#8) ∧
  decodeTableWord 16 0b1111111100010101 = some .baud5 ∧
  decodeTableWord 16 0b1111111110101010 = some (.illegal 0xAA#8) ∧
  decode .deviceToHost [0b10101010#8] = .ok (.encLit 0xAA#8, []) ∧
  decode .deviceToHost [0b11111111#8, 0b11111111#8] = .ok (.encEsc, []) ∧
  decode .deviceToHost [0b11111111#8, 0b00000001#8, 0b10101010#8] = .ok (.encHigh 0xAA#8, [])

/-- R88: what the byte after an escape code means, host to device, for all 256 values. -/
def Obligations.ControlByteMap : Prop :=
  ∀ (c dd : Byte) (rest : List Byte),
    decode .hostToDevice (0xFF#8 :: c :: dd :: rest) =
      if c = 0x01#8 then .ok (.high dd, rest)
      else if c = 0x10#8 then .ok (.baud0, dd :: rest)
      else if c = 0x11#8 then .ok (.baud1, dd :: rest)
      else if c = 0x12#8 then .ok (.baud2, dd :: rest)
      else if c = 0x13#8 then .ok (.baud3, dd :: rest)
      else if c = 0x14#8 then .ok (.baud4, dd :: rest)
      else if c = 0x15#8 then .ok (.baud5, dd :: rest)
      else if c = 0x16#8 then .ok (.baud6, dd :: rest)
      else if c = 0x17#8 then .ok (.baud7, dd :: rest)
      else if c = 0x18#8 then .ok (.baud8, dd :: rest)
      else if c = 0x19#8 then .ok (.baud9, dd :: rest)
      else if c = 0xFF#8 then .ok (.dataff, dd :: rest)
      else .ok (.illegal c, dd :: rest)

/-- R95: a byte string that a row of the opcode table covers decodes, in the row's direction, to the
row's instruction and nothing is left; so the rows of one direction are disjoint. -/
def Obligations.TableRowDecodesToItsInstruction : Prop :=
  ∀ (row : TableRow) (bs : List Byte), row ∈ encodedRows → row.covers bs = true →
    ∃ i, decode row.direction bs = .ok (i, []) ∧ i.mnemonic = row.mnemonic

/-- R95: what the decoder reads is covered by exactly one row of its direction, the instruction's. -/
def Obligations.DecodedInstructionHasOneTableRow : Prop :=
  ∀ (dir : Direction) (bs rest : List Byte) (i : Instr), decode dir bs = .ok (i, rest) →
    (coveringRows dir (encode i)).map TableRow.mnemonic = [i.mnemonic]

/-- R91: the map between frame values and data-carrying sequences is a bijection, and the encoding is
the same in both directions. -/
def Obligations.FrameEncodingIsBijective : Prop :=
  (∀ (v : Frame),
    (sendSequence v).wf = true ∧ (sendSequence v).direction = some .hostToDevice ∧
    (sendSequence v).frame = some v ∧ encode (sendSequence v) = encodeFrame v ∧
    (productionOf v).wf = true ∧ (productionOf v).direction = some .deviceToHost ∧
    (productionOf v).frame = some v ∧ encode (productionOf v) = encodeFrame v) ∧
  (∀ (i : Instr) (v : Frame), i.wf = true → i.frame = some v →
    (i.direction = some .hostToDevice → i = sendSequence v) ∧
    (i.direction = some .deviceToHost → i = productionOf v))

/-- R87: the index and the rate of a control byte, when it is one, and that `0x1A` to `0x1F` are illegal. -/
def Obligations.BaudSelectOperand : Prop :=
  ∀ (c : Byte),
    ((0x10 ≤ c.toNat ∧ c.toNat ≤ 0x19) ↔ (c >>> 4 = 0x01#8 ∧ (c &&& 0x0F#8).toNat ≤ 9)) ∧
    (0x10 ≤ c.toNat ∧ c.toNat ≤ 0x19 →
      baudIndex c = some (c &&& 0x0F#8).toNat ∧ (c &&& 0x0F#8).toNat = c.toNat - 0x10 ∧
      baudRate c = Config.baudTable[c.toNat - 0x10]? ∧ (baudRate c).isSome = true) ∧
    (¬(0x10 ≤ c.toNat ∧ c.toNat ≤ 0x19) → baudIndex c = none ∧ baudRate c = none) ∧
    (0x1A ≤ c.toNat ∧ c.toNat ≤ 0x1F → (Instr.illegal c).wf = true)

/-- R8, R62, R93: `{0, b}` and `{1, b}` as numbers, and the two fields read back. -/
def Obligations.FrameValueAssembly : Prop :=
  ∀ (b : Byte),
    (plainFrame b).toNat = b.toNat ∧ (highFrame b).toNat = 0x100 + b.toNat ∧
    sideBit (plainFrame b) = false ∧ sideBit (highFrame b) = true ∧
    dataBits (plainFrame b) = b ∧ dataBits (highFrame b) = b

/-! ## The encoder -/

/-- R130, R136: `Encode(v)`, the side-channel bit tested first, so that `0x1FF` is `FF 01 FF`. -/
def Obligations.EncodeTestsSideBitFirst : Prop :=
  ∀ (v : Frame),
    (sideBit v = true → encodeFrame v = [0xFF#8, 0x01#8, dataBits v]) ∧
    (sideBit v = false → dataBits v = 0xFF#8 → encodeFrame v = [0xFF#8, 0xFF#8]) ∧
    (sideBit v = false → dataBits v ≠ 0xFF#8 → encodeFrame v = [dataBits v]) ∧
    encodeFrame 0x1FF#9 = [0xFF#8, 0x01#8, 0xFF#8]

/-- R131 to R133: each production writes its bytes in order and touches nothing else. The operand of
`ENC.LIT` is any byte but `0xFF`. -/
def Obligations.ProductionsWriteTheirBytes : Prop :=
  ∀ (s : State) (dd : Byte), s.phase = .opened →
    exec (.encHigh dd) s = .next { s with
      hostPort := { s.hostPort with outbound := s.hostPort.outbound ++ [0xFF#8, 0x01#8, dd] }
      trace := s.trace ++ [.hostWrite 0xFF#8, .hostWrite 0x01#8, .hostWrite dd] } ∧
    exec .encEsc s = .next { s with
      hostPort := { s.hostPort with outbound := s.hostPort.outbound ++ [0xFF#8, 0xFF#8] }
      trace := s.trace ++ [.hostWrite 0xFF#8, .hostWrite 0xFF#8] } ∧
    (dd ≠ 0xFF#8 → exec (.encLit dd) s = .next { s with
      hostPort := { s.hostPort with outbound := s.hostPort.outbound ++ [dd] }
      trace := s.trace ++ [.hostWrite dd] })

/-- R111: `T.RX` consumes the waiting frame and writes its encoding, whatever `DSTATE` and `TALK` are;
it writes neither. -/
def Obligations.ReceiveBranchForwardsFrame : Prop :=
  ∀ (s : State) (v : Frame), s.phase = .opened → s.adapter.rxWaiting = some v →
    exec .tRx s = .next { s with
      adapter := { s.adapter with rxWaiting := none }
      hostPort := { s.hostPort with outbound := s.hostPort.outbound ++ encodeFrame v }
      trace := s.trace ++ (.uartReceive v :: (encodeFrame v).map .hostWrite) }

/-- R111, R130: `T.RX` is the read of the frame followed by the production that stands for it. -/
def Obligations.ReceiveBranchRunsProduction : Prop :=
  ∀ (s : State) (v : Frame), s.adapter.rxWaiting = some v →
    exec .tRx s = exec (productionOf v) (uartReceive v s)

/-! ## The decoder -/

/-- R141 to R149, Table R150: the next `DSTATE` and the call made, for every `DSTATE` and byte. -/
def Obligations.DecoderTransitionTable : Prop :=
  ∀ (b : Byte),
    decoderStep .idle b =
      (if b = 0xFF#8 then (.escape, none) else (.idle, some (.transmit (plainFrame b)))) ∧
    decoderStep .escape b =
      (if b = 0x01#8 then (.high, none)
        else if b = 0xFF#8 then (.idle, some (.transmit 0x0FF#9))
        else if 0x10 ≤ b.toNat ∧ b.toNat ≤ 0x19 then
          (.idle, some (.configure (Config.baudTable.getD (b.toNat - 0x10) 0)))
        else (.idle, none)) ∧
    decoderStep .high b = (.idle, some (.transmit (highFrame b))) ∧
    decoderStep .invalid b = (.idle, none)

/-- R113, R141, R142: a `T.HOST` tick in `IDLE`. That a transmit makes the holding register busy is the
model's (log entry 7). -/
def Obligations.HostBranchInIdle : Prop :=
  ∀ (s : State) (b : Byte) (rest : List Byte), s.phase = .opened → s.dstate = .idle →
    s.hostPort.inbound = b :: rest →
    (b = 0xFF#8 → exec .tHost s = .next { s with
      dstate := .escape
      talk := true
      adapter := seizedAdapter s
      hostPort := { s.hostPort with inbound := rest }
      trace := s.trace ++ (.hostRead b :: seizeCalls s.talk) }) ∧
    (b ≠ 0xFF#8 → s.adapter.txBusy = false → exec .tHost s = .next { s with
      talk := true
      adapter := transmitting (plainFrame b) (seizedAdapter s)
      hostPort := { s.hostPort with inbound := rest }
      trace := s.trace ++ (.hostRead b :: seizeCalls s.talk ++ [.uartTransmit (plainFrame b)]) })

/-- R113, R143 to R147: a `T.HOST` tick in `ESCAPE`; the four clauses exclude each other. The adapter after
a transmit and after a configure is the model's (log entries 7 and 10). -/
def Obligations.HostBranchInEscape : Prop :=
  ∀ (s : State) (b : Byte) (rest : List Byte), s.phase = .opened → s.dstate = .escape →
    s.hostPort.inbound = b :: rest →
    (b = 0x01#8 → exec .tHost s = .next { s with
      dstate := .high
      talk := true
      adapter := seizedAdapter s
      hostPort := { s.hostPort with inbound := rest }
      trace := s.trace ++ (.hostRead b :: seizeCalls s.talk) }) ∧
    (b = 0xFF#8 → s.adapter.txBusy = false → exec .tHost s = .next { s with
      dstate := .idle
      talk := true
      adapter := transmitting 0x0FF#9 (seizedAdapter s)
      hostPort := { s.hostPort with inbound := rest }
      trace := s.trace ++ (.hostRead b :: seizeCalls s.talk ++ [.uartTransmit 0x0FF#9]) }) ∧
    (∀ rate, 0x10 ≤ b.toNat → b.toNat ≤ 0x19 → Config.baudTable[b.toNat - 0x10]? = some rate →
      exec .tHost s = .next { s with
        dstate := .idle
        talk := true
        adapter := configured rate (seizedAdapter s)
        hostPort := { s.hostPort with inbound := rest }
        trace := s.trace ++ (.hostRead b :: seizeCalls s.talk ++ [.uartConfigure rate]) }) ∧
    (b ≠ 0x01#8 → b ≠ 0xFF#8 → ¬(0x10 ≤ b.toNat ∧ b.toNat ≤ 0x19) → exec .tHost s = .next { s with
      dstate := .idle
      talk := true
      adapter := seizedAdapter s
      hostPort := { s.hostPort with inbound := rest }
      trace := s.trace ++ (.hostRead b :: seizeCalls s.talk) })

/-- R113, R148: a `T.HOST` tick in `HIGH`: the byte is not examined (log entry 7 for the holding register). -/
def Obligations.HostBranchInHigh : Prop :=
  ∀ (s : State) (b : Byte) (rest : List Byte), s.phase = .opened → s.dstate = .high →
    s.adapter.txBusy = false → s.hostPort.inbound = b :: rest →
    exec .tHost s = .next { s with
      dstate := .idle
      talk := true
      adapter := transmitting (highFrame b) (seizedAdapter s)
      hostPort := { s.hostPort with inbound := rest }
      trace := s.trace ++ (.hostRead b :: seizeCalls s.talk ++ [.uartTransmit (highFrame b)]) }

/-- R149: a `T.HOST` tick with `DSTATE` = `0b11`: the byte is dropped, after the prologue. -/
def Obligations.HostBranchInInvalid : Prop :=
  ∀ (s : State) (b : Byte) (rest : List Byte), s.phase = .opened → s.dstate = .invalid →
    s.hostPort.inbound = b :: rest →
    exec .tHost s = .next { s with
      dstate := .idle
      talk := true
      adapter := seizedAdapter s
      hostPort := { s.hostPort with inbound := rest }
      trace := s.trace ++ (.hostRead b :: seizeCalls s.talk) }

/-- R155: how many bytes the decoder consumes before `DSTATE` is next `IDLE`. -/
def Obligations.DecoderResynchronises : Prop :=
  ∀ (b c : Byte),
    (decoderStep .high b).1 = .idle ∧ (decoderStep .invalid b).1 = .idle ∧
    (b ≠ 0x01#8 → (decoderStep .escape b).1 = .idle) ∧
    (b = 0x01#8 → (decoderStep .escape b).1 ≠ .idle ∧
      (decoderStep (decoderStep .escape b).1 c).1 = .idle)

/-- R137, R157: the decoder, run on the bytes the encoder writes for any frames, transmits exactly those
frames in order and ends in `IDLE`. -/
def Obligations.EncoderDecoderRoundTrip : Prop :=
  ∀ (vs : List Frame),
    runDecoder .idle (vs.flatMap encodeFrame) = (.idle, vs.map UartCommand.transmit)

/-! ## The sequences -/

/-- R151: `DATA dd` from `IDLE`, with its byte first in the Host Port (log entries 3 and 7). -/
def Obligations.DataSendsPlainFrame : Prop :=
  ∀ (s : State) (dd : Byte) (more : List Byte), s.phase = .opened → s.dstate = .idle →
    s.adapter.txBusy = false → (Instr.data dd).wf = true →
    s.hostPort.inbound = encode (.data dd) ++ more →
    exec (.data dd) s = .next { s with
      talk := true
      adapter := transmitting (plainFrame dd) (seizedAdapter s)
      hostPort := { s.hostPort with inbound := more }
      trace := s.trace ++ (.hostRead dd :: seizeCalls s.talk ++ [.uartTransmit (plainFrame dd)]) }

/-- R152: `DATAFF` from `IDLE`, with its bytes first in the Host Port (log entries 3 and 7). -/
def Obligations.DataffSendsFrame0FF : Prop :=
  ∀ (s : State) (more : List Byte), s.phase = .opened → s.dstate = .idle →
    s.adapter.txBusy = false → s.hostPort.inbound = encode .dataff ++ more →
    exec .dataff s = .next { s with
      talk := true
      adapter := transmitting 0x0FF#9 (seizedAdapter s)
      hostPort := { s.hostPort with inbound := more }
      trace := s.trace ++ (.hostRead 0xFF#8 :: seizeCalls s.talk ++
        [.hostRead 0xFF#8, .uartTransmit 0x0FF#9]) }

/-- R153: `HIGH dd` from `IDLE`, with its bytes first in the Host Port (log entries 3 and 7). -/
def Obligations.HighSendsFrameWithSideBit : Prop :=
  ∀ (s : State) (dd : Byte) (more : List Byte), s.phase = .opened → s.dstate = .idle →
    s.adapter.txBusy = false → s.hostPort.inbound = encode (.high dd) ++ more →
    exec (.high dd) s = .next { s with
      talk := true
      adapter := transmitting (highFrame dd) (seizedAdapter s)
      hostPort := { s.hostPort with inbound := more }
      trace := s.trace ++ (.hostRead 0xFF#8 :: seizeCalls s.talk ++
        [.hostRead 0x01#8, .hostRead dd, .uartTransmit (highFrame dd)]) }

/-- R170 to R180: the ten baud-select sequences from `IDLE`, with their bytes first in the Host Port: the
rate of the row is set, also when it is the rate in force; no frame is transmitted and nothing is written
to the host (log entries 3 and 10). -/
def Obligations.BaudSelectSetsRate : Prop :=
  ∀ (s : State) (i : Instr) (c : Byte) (rate : Nat) (more : List Byte), s.phase = .opened →
    s.dstate = .idle → s.hostPort.inbound = encode i ++ more →
    (i, c, rate) ∈ [(Instr.baud0, 0x10#8, 300), (.baud1, 0x11#8, 600), (.baud2, 0x12#8, 1200),
      (.baud3, 0x13#8, 2400), (.baud4, 0x14#8, 4800), (.baud5, 0x15#8, 9600),
      (.baud6, 0x16#8, 19200), (.baud7, 0x17#8, 38400), (.baud8, 0x18#8, 57600),
      (.baud9, 0x19#8, 115200)] →
    exec i s = .next { s with
      talk := true
      adapter := configured rate (seizedAdapter s)
      hostPort := { s.hostPort with inbound := more }
      trace := s.trace ++ (.hostRead 0xFF#8 :: seizeCalls s.talk ++
        [.hostRead c, .uartConfigure rate]) }

/-- R154, R92: `ILLEGAL cc` from `IDLE`, with its bytes first in the Host Port (log entry 3): both are
consumed, nothing is sent, `TALK` is set. -/
def Obligations.IllegalIsDiscarded : Prop :=
  ∀ (s : State) (cc : Byte) (more : List Byte), s.phase = .opened → s.dstate = .idle →
    (Instr.illegal cc).wf = true → s.hostPort.inbound = encode (.illegal cc) ++ more →
    exec (.illegal cc) s = .next { s with
      talk := true
      adapter := seizedAdapter s
      hostPort := { s.hostPort with inbound := more }
      trace := s.trace ++ (.hostRead 0xFF#8 :: seizeCalls s.talk ++ [.hostRead cc]) }

/-- R156: a sequence is the `T.HOST` ticks that read it. That in `ESCAPE` and `HIGH` these are the ticks for
what is left of it, and that all its bytes are read where `DSTATE` is no position of it, is the model's
reading (log entry 3, DEDUCED from R26 and R209). -/
def Obligations.SequenceIsItsHostTicks : Prop :=
  ∀ (i : Instr) (s : State) (more : List Byte), i.direction = some .hostToDevice →
    s.phase = .opened → s.hostPort.inbound = sequenceRest i s.dstate ++ more →
    exec i s = tHostTimes (sequenceRest i s.dstate).length s

/-- R156: from `IDLE`, with the bytes of a sequence in the Host Port and quiet ticks called, as many
steps as the sequence has bytes end where the sequence's meaning says, with the same action trace. -/
def Obligations.QuietTicksRunSequence : Prop :=
  ∀ (i : Instr) (s : State) (ops : List Op) (more : List Byte),
    i.wf = true → i.direction = some .hostToDevice →
    s.phase = .opened → s.dstate = .idle → s.adapter.rxWaiting = none → s.adapter.txBusy = false →
    s.pending = List.replicate (encode i).length quietTick ++ ops →
    s.hostPort.inbound = encode i ++ more →
    ∃ t u, Host.Core.run Sys2Proof.core (encode i).length s = .next t ∧ exec i s = .next u ∧
      t = { u with pending := ops, trace := t.trace } ∧
      actionTrace t.trace = actionTrace u.trace

/-! ## The branches and the lifecycle -/

/-- R112, R115: the two branches that do nothing. -/
def Obligations.BusyAndIdleBranchesSkip : Prop :=
  ∀ (s : State), s.phase = .opened → exec .tBusy s = .next s ∧ exec .tIdle s = .next s

/-- R114: `T.REL`. -/
def Obligations.ReleaseBranchClearsTalk : Prop :=
  ∀ (s : State), s.phase = .opened →
    (s.talk = true → exec .tRel s = .next { s with
      talk := false
      adapter := { s.adapter with direction := .listen }
      trace := s.trace ++ [.enterListen] }) ∧
    (s.talk = false → exec .tRel s = .next s)

/-- R184: `OPEN(baud)` after a reset. The order of its three calls is the model's (log entry 17), and so are the
answer of `transmit_complete()` without a referent (9), the mark `upset` of a configure in flight (10), that
the instruction alone leaves the holding places as they are, which a step then replaces by what is found
(11), and the phase (15). -/
def Obligations.OpenConfiguresStartsAndListens : Prop :=
  ∀ (s : State) (baud : Nat), s.phase = .constructed → (Instr.openBridge baud).wf = true →
    exec (.openBridge baud) s = .next { s with
      phase := .opened
      adapter := { configured baud s.adapter with
        enabled := true
        line := .unreferenced (lineComplete s.adapter.line)
        direction := .listen }
      trace := s.trace ++ [.uartConfigure baud, .uartStart, .enterListen] }

/-- R185: `CLOSE`; that it keeps the two registers is 92 D20 (log entry 18). The phase is the model's (15), and
so is that `stop()` leaves the line and the holding places as they are, while the bus-direction mode is
offline or as before by a constant that has no value (31). -/
def Obligations.CloseStopsPeripheral : Prop :=
  ∀ (s : State), s.phase = .opened →
    exec .closeBridge s = .next { s with
      phase := .closed
      adapter := { s.adapter with
        enabled := false
        direction := directionAfterStop s.adapter.direction }
      trace := s.trace ++ [.uartStop] }

/-- R121, R186: outside the admitted order of operations nothing has a meaning, nor an `OPEN` at a rate
outside the table (92 D6, D7; log entries 15 and 16). That a production alone is refused there too is the
model's reading (log entry 24, DEDUCED). -/
def Obligations.OutsideLifecycleIsRefused : Prop :=
  ∀ (s : State) (i : Instr) (baud : Nat),
    (s.phase ≠ .opened → i ≠ .closeBridge → (∀ r, i ≠ .openBridge r) →
      exec i s = .refused .tickOutsideLifecycle) ∧
    (s.phase ≠ .constructed → exec (.openBridge baud) s = .refused .openNotAfterReset) ∧
    (s.phase ≠ .opened → exec .closeBridge s = .refused .closeNotOpen) ∧
    (s.phase = .constructed → (Instr.openBridge baud).wf = false →
      exec (.openBridge baud) s = .refused .rateNotInTable)

/-- 93 U1 to U3: the calls that break a collaborator's contract are refused: a receive with no frame, a read
with no byte, by `T.HOST` or by a sequence, and a transmit while the holding register is not ready. The
dispatcher never comes to any of them (log entry 28). A sequence of which the Host Port holds only the bytes
`pre` reads these first, and is then refused, by the name that says whether the port is empty there or holds
another byte; from `IDLE` nothing else can end it. That it is refused for another byte is the model's choice,
and that it reads what `DSTATE` says is left of it the model's reading (log entry 3). -/
def Obligations.ContractBreakingCallsAreRefused : Prop :=
  ∀ (s : State) (b : Byte) (rest : List Byte), s.phase = .opened →
    (s.adapter.rxWaiting = none → exec .tRx s = .refused .receiveNotReady) ∧
    (s.hostPort.inbound = [] → exec .tHost s = .refused .readNotAvailable ∧
      ∀ i : Instr, i.direction = some .hostToDevice → exec i s = .refused .readNotAvailable) ∧
    (∀ (i : Instr) (c : Byte) (cs : List Byte), i.direction = some .hostToDevice →
      sequenceRest i s.dstate = c :: cs → s.hostPort.inbound = b :: rest → b ≠ c →
      exec i s = .refused .sequenceNotInPort) ∧
    (∀ (i : Instr) (pre cs more : List Byte) (c : Byte) (why : Refusal),
      i.direction = some .hostToDevice → sequenceRest i s.dstate = pre ++ c :: cs →
      s.hostPort.inbound = pre ++ more →
      (more = [] ∧ why = .readNotAvailable ∨
        ∃ d ds, more = d :: ds ∧ d ≠ c ∧ why = .sequenceNotInPort) →
      exec i s = andThen (tHostTimes pre.length s) (fun _ => .refused why) ∧
      (s.dstate = .idle → exec i s = .refused why)) ∧
    (s.hostPort.inbound = b :: rest → s.adapter.txBusy = true →
      (∃ f, (decoderStep s.dstate b).2 = some (.transmit f)) →
      exec .tHost s = .refused .transmitWhileBusy) ∧
    (∀ (i : Instr) (v : Frame), s.dstate = .idle → s.adapter.txBusy = true → i.wf = true →
      i.direction = some .hostToDevice → i.frame = some v → s.hostPort.inbound = encode i ++ rest →
      exec i s = .refused .transmitWhileBusy)

/-! ## Reset -/

/-- R32, R22, R24: the two registers after reset, as values and as bits, and the bits of every value: two bits
name each value of `DSTATE` and each value is named by two bits (92 D3, D4; log entry 12). -/
def Obligations.ResetClearsRegisters : Prop :=
  State.reset.dstate = .idle ∧ State.reset.talk = false ∧
  dstateBits State.reset.dstate = 0b00#2 ∧ talkBit State.reset.talk = 0#1 ∧
  dstateBits .idle = 0b00#2 ∧ dstateBits .escape = 0b01#2 ∧ dstateBits .high = 0b10#2 ∧
  dstateBits .invalid = 0b11#2 ∧ talkBit false = 0#1 ∧ talkBit true = 1#1 ∧
  (∀ d : DState, dstateOfBits (dstateBits d) = d) ∧
  (∀ b : BitVec 2, dstateBits (dstateOfBits b) = b)

/-- R230, R231: a reset at any time sets the two registers and calls nothing; the adapter and the Host
Port are as they were. That the run and its trace begin anew is the model's (log entries 8 and 13). -/
def Obligations.ResetStepTouchesRegistersOnly : Prop :=
  ∀ (s : State) (ops : List Op), s.pending = .reset :: ops →
    step s = .next { s with
      dstate := .idle, talk := false, phase := .constructed, trace := [], pending := ops }

/-! ## The step -/

/-- One step runs the operation the outside calls next: for a tick the branch the dispatcher selects,
for `OPEN` and `CLOSE` their instruction; with none called it holds the state. The environment's moves
before `OPEN`, what it is found to be after it, and holding, are the model's (log entries 5, 11 and 14). -/
def Obligations.StepRunsSelectedInstruction : Prop :=
  ∀ (s : State) (ops : List Op),
    (∀ m, s.pending = .tick m :: ops →
      step s = exec (poll m (setPending ops s)).1 (poll m (setPending ops s)).2) ∧
    (∀ baud before found, s.pending = .openBridge baud before found :: ops →
      step s = andThen (exec (.openBridge baud) (envMoves before (setPending ops s)))
        fun t => .next (adapterFound found t)) ∧
    (s.pending = .closeBridge :: ops → step s = exec .closeBridge (setPending ops s)) ∧
    (s.pending = [] → step s = .next s)

/-- A tick that reads the last byte of a sequence runs the sequence's instruction: the bytes read before
stand in `DSTATE` (R26, R84). What an instruction means in mid-sequence is the model's reading (log entry 3,
DEDUCED): in `ESCAPE` the operand of `DATA` too is read as a control byte. -/
def Obligations.StepRunsDecodedSequence : Prop :=
  ∀ (s : State) (m : TickMoves) (ops : List Op) (i : Instr) (b : Byte) (rest : List Byte),
    s.pending = .tick m :: ops → i.direction = some .hostToDevice →
    (poll m (setPending ops s)).1 = .tHost → sequenceRest i s.dstate = [b] →
    (poll m (setPending ops s)).2.hostPort.inbound = b :: rest →
    step s = exec i (poll m (setPending ops s)).2

/-- The next step after a table word is placed runs the word's instruction, and completes (log entry 4). -/
def Obligations.PlacedWordRunsNext : Prop :=
  ∀ (s : State) (nbits w : Nat) (i : Instr), decodeTableWord nbits w = some i →
    ∃ u t, step (s.withFetchWord nbits w) = exec i u ∧ exec i u = .next t ∧
      u.dstate = (s.withFetchWord nbits w).dstate ∧ u.talk = s.talk ∧ u.phase = .opened ∧
      u.pending = s.pending ∧ actionTrace u.trace = actionTrace s.trace

/-- R116, Table R116: the branch selected and the queries made, for every combination of the four answers,
each given at the moment of its call, whatever moves the environment makes before it (R70). While it makes
none, nothing changes but the trace. -/
def Obligations.BranchSelectionTable : Prop :=
  (∀ (m : TickMoves) (s s1 s2 s3 s4 : State),
    s1 = envMoves m.beforeRxReady s → s2 = envMoves m.beforeTxBusy s1 →
    s3 = envMovesAfterGuard m.beforeAvail s2 → s4 = envMovesAfterGuard m.beforeTxComplete s3 →
    (poll m s).1 = selectedBranch (rxReady s1) (txBusy s2) (availCount s3) (txComplete s4) ∧
    (poll m s).2.trace =
      s.trace ++ queriesMade (rxReady s1) (txBusy s2) (availCount s3) (txComplete s4) ∧
    (poll m s).2.dstate = s.dstate ∧ (poll m s).2.talk = s.talk) ∧
  (∀ (s : State),
    poll { beforeRxReady := [], beforeTxBusy := [], beforeAvail := [], beforeTxComplete := [] } s =
      if s.adapter.rxWaiting.isSome then
        (.tRx, { s with trace := s.trace ++ [.uartRxReady true] })
      else if s.adapter.txBusy then
        (.tBusy, { s with trace := s.trace ++ [.uartRxReady false, .uartTxBusy true] })
      else if 1 ≤ s.hostPort.inbound.length then
        (.tHost, { s with trace := s.trace ++ [.uartRxReady false, .uartTxBusy false,
          .hostAvail s.hostPort.inbound.length] })
      else if lineComplete s.adapter.line then
        (.tRel, { s with trace := s.trace ++ [.uartRxReady false, .uartTxBusy false,
          .hostAvail 0, .uartTxComplete true] })
      else
        (.tIdle, { s with trace := s.trace ++ [.uartRxReady false, .uartTxBusy false,
          .hostAvail 0, .uartTxComplete false] }))

/-- R110, R200: between `OPEN` and `CLOSE` every tick runs to its end, whatever the registers are and
whatever the environment does. -/
def Obligations.EveryTickCompletes : Prop :=
  ∀ (s : State) (m : TickMoves) (ops : List Op), s.phase = .opened → s.pending = .tick m :: ops →
    ∃ t, step s = .next t ∧ t.phase = .opened ∧ t.pending = ops

/-- R110, R119: what a tick calls, in order, and what it does to the two registers, is one of the five
rows of Table R119, and depends on the registers and the answers alone. -/
def Obligations.TickTraceIsOneBranch : Prop :=
  ∀ (s t : State) (m : TickMoves) (ops : List Op), s.pending = .tick m :: ops → step s = .next t →
    (∃ v, t.trace = s.trace ++
        (.uartRxReady true :: .uartReceive v :: (encodeFrame v).map .hostWrite) ∧
      t.dstate = s.dstate ∧ t.talk = s.talk) ∨
    (t.trace = s.trace ++ [.uartRxReady false, .uartTxBusy true] ∧
      t.dstate = s.dstate ∧ t.talk = s.talk) ∨
    (∃ n b, 1 ≤ n ∧ t.trace = s.trace ++
        ([.uartRxReady false, .uartTxBusy false, .hostAvail n, .hostRead b] ++
          seizeCalls s.talk ++ commandCalls (decoderStep s.dstate b).2) ∧
      t.dstate = (decoderStep s.dstate b).1 ∧ t.talk = true) ∨
    (t.trace = s.trace ++
        ([.uartRxReady false, .uartTxBusy false, .hostAvail 0, .uartTxComplete true] ++
          releaseCalls s.talk) ∧
      t.dstate = s.dstate ∧ t.talk = false) ∨
    (t.trace = s.trace ++
        [.uartRxReady false, .uartTxBusy false, .hostAvail 0, .uartTxComplete false] ∧
      t.dstate = s.dstate ∧ t.talk = s.talk)

/-- R64: per tick at most one consuming read, and either up to three bytes to the host or at most one
command to the UART, never both. -/
def Obligations.TickMovesOneUnit : Prop :=
  ∀ (s t : State) (m : TickMoves) (ops : List Op) (cs : List Call),
    s.pending = .tick m :: ops → step s = .next t → t.trace = s.trace ++ cs →
    (framesReceived cs).length + (bytesRead cs).length ≤ 1 ∧
    (bytesWritten cs).length ≤ 3 ∧ (uartCommands cs).length ≤ 1 ∧
    (bytesWritten cs = [] ∨ (uartCommands cs = [] ∧ directionCalls cs = []))

/-- R118: as long as nothing arrives, ticks that find the transmitter busy, or nothing to do, change
nothing but the queries in the trace, however often they are repeated. -/
def Obligations.IdleTicksChangeNothing : Prop :=
  ∀ (n : Nat) (s : State) (ops : List Op),
    s.phase = .opened → s.pending = List.replicate n quietTick ++ ops →
    s.adapter.rxWaiting = none →
    (s.adapter.txBusy = true ∨
      (s.hostPort.inbound = [] ∧ (lineComplete s.adapter.line = true → s.talk = false))) →
    ∃ t, Host.Core.run Sys2Proof.core n s = .next t ∧
      t = { s with pending := ops, trace := t.trace } ∧
      actionTrace t.trace = actionTrace s.trace

/-- R21, R25: `DSTATE` changes only in a `T.HOST` tick or a reset. -/
def Obligations.OnlyHostBranchWritesDecoderState : Prop :=
  ∀ (s t : State), step s = .next t → t.dstate ≠ s.dstate →
    TickSelects s .tHost ∨ ∃ ops, s.pending = .reset :: ops

/-- R23, R27: `TALK` is set only by a `T.HOST` tick that finds it clear, together with `EnterTalk()`,
and cleared only by a `T.REL` tick that finds it set, together with `EnterListen()`, or by a reset: the call
is the one direction call the step adds. -/
def Obligations.TalkChangesWithItsDirectionCall : Prop :=
  ∀ (s t : State), step s = .next t → t.talk ≠ s.talk →
    (s.talk = false ∧ TickSelects s .tHost ∧ t.adapter.direction = .talk ∧
      ∃ cs, t.trace = s.trace ++ cs ∧ directionCalls cs = [.talk]) ∨
    (s.talk = true ∧ TickSelects s .tRel ∧ t.adapter.direction = .listen ∧
      ∃ cs, t.trace = s.trace ++ cs ∧ directionCalls cs = [.listen]) ∨
    ∃ ops, s.pending = .reset :: ops

/-- R48, R112, R113: a frame is handed to the UART only after `UartTxBusy()` has answered false earlier in the
same tick, and with the bus driven. -/
def Obligations.TransmitOnlyWhenFreeAndTalking : Prop :=
  ∀ (s t : State) (m : TickMoves) (ops : List Op) (before after : List Call) (f : Frame),
    s.pending = .tick m :: ops → step s = .next t →
    t.trace = s.trace ++ (before ++ .uartTransmit f :: after) →
    Call.uartTxBusy false ∈ before ∧ t.talk = true

/-- R51, R248: a tick releases the bus only when no frame is still leaving the peripheral: one that was on its
way out when the tick began has left. In an adapter that a configure in flight has upset, whose answers are
undefined (93 U4), that no frame leaves any more is the environment's answer and no more (log entry 10). -/
def Obligations.ReleaseOnlyAfterFrameHasLeft : Prop :=
  ∀ (s t : State) (m : TickMoves) (ops : List Op) (cs : List Call),
    s.pending = .tick m :: ops → step s = .next t → t.trace = s.trace ++ cs →
    Call.enterListen ∈ cs →
    isDraining t.adapter.line = false ∧
    (s.adapter.upset = false → ∀ f, s.adapter.line = .draining f → t.adapter.line = .left f)

/-- R10, 92 D8: a step is a function of the registers and the answers: two states that give the same
answers make the same calls and stay alike, whatever rate, direction, enable, overrun indication,
outbound bytes or history they hold. -/
def Obligations.SameAnswersSameCalls : Prop :=
  ∀ (s s' t : State), SameAnswers s s' → step s = .next t →
    ∃ t', step s' = .next t' ∧ SameAnswers t t' ∧
      ((∃ cs, t.trace = s.trace ++ cs ∧ t'.trace = s'.trace ++ cs) ∨
        (∃ ops, s.pending = .reset :: ops ∧ t.trace = [] ∧ t'.trace = []))

/-! ## The environment's contracts -/

/-- R45, R56: but for an adapter that a configure in flight has upset (log entry 10), a waiting frame stays
waiting until it is received. Where another frame arrives meanwhile, one of the two waits afterwards, which
one is the environment's choice, and the overrun is indicated; a frame that arrives on an empty place waits,
without (93 U5; log entry 20). -/
def Obligations.WaitingFrameIsNotWithdrawn : Prop :=
  ∀ (s : State) (ms : List EnvMove) (v w : Frame),
    (s.adapter.upset = false → s.adapter.rxWaiting.isSome = true →
      (envMoves ms s).adapter.rxWaiting.isSome = true) ∧
    (s.adapter.rxWaiting = some w →
      (envMove (.frameArrives v) s).adapter.rxWaiting = some v ∧
      (envMove (.frameArrives v) s).adapter.overrun = true ∧
      (envMove (.frameLost v) s).adapter.rxWaiting = some w ∧
      (envMove (.frameLost v) s).adapter.overrun = true) ∧
    (s.adapter.rxWaiting = none →
      (envMove (.frameArrives v) s).adapter.rxWaiting = some v ∧
      (envMove (.frameArrives v) s).adapter.overrun = s.adapter.overrun)

/-- R47: but for an upset adapter (log entry 10), `transmit_complete()` stays false until the frame has left. -/
def Obligations.DrainingFrameIsNotComplete : Prop :=
  ∀ (s : State) (ms : List EnvMove) (f : Frame), s.adapter.upset = false →
    s.adapter.line = .draining f → EnvMove.lineIdle ∉ ms →
    txComplete (envMoves ms s) = false

/-- 92 D18: before anything has been transmitted, both answers of `transmit_complete()` are possible in
a tick that asks it, so the tick may release the bus or not (log entry 9). -/
def Obligations.CompleteIsFreeBeforeFirstTransmit : Prop :=
  ∀ (s : State) (ops : List Op) (a b : Bool), s.phase = .opened → s.adapter.rxWaiting = none →
    s.adapter.txBusy = false → s.hostPort.inbound = [] → s.adapter.line = .unreferenced a →
    ∃ m, (poll m (setPending ops s)).1 = (if b then .tRel else .tIdle)

/-! ## The invariants of a run -/

/-- R31, R181: the direction invariant is kept by every step. Its clause about the adapter's mode leaves out an
upset adapter (log entry 10), and after `CLOSE` it says only what `stop()` makes of the mode (log
entry 31). -/
def Obligations.StepKeepsDirectionInvariant : Prop :=
  ∀ (s t : State), DirectionInv s → step s = .next t → DirectionInv t

/-- R68, R140, R150: the decoder invariant is kept by every step: whatever other ticks come between, the
UART is handed exactly what the decoder makes of the bytes read. -/
def Obligations.StepKeepsDecoderInvariant : Prop :=
  ∀ (s t : State), DecoderInv s → step s = .next t → DecoderInv t

/-- R60, R68, R137: the outbound invariant is kept by every step. -/
def Obligations.StepKeepsOutboundInvariant : Prop :=
  ∀ (s t : State), OutboundInv s → step s = .next t → OutboundInv t

/-- R49, R53, R54, R217: the peripheral invariant is kept by every step: in an adapter that is not upset (log
entry 10), enabled while open, disabled once closed, at a rate of the table. -/
def Obligations.StepKeepsPeripheralInvariant : Prop :=
  ∀ (s t : State), PeripheralInv s → step s = .next t → PeripheralInv t

/-- R149: no step writes the invalid value of `DSTATE`. -/
def Obligations.StepNeverMakesDecoderStateInvalid : Prop :=
  ∀ (s t : State), s.dstate ≠ .invalid → step s = .next t → t.dstate ≠ .invalid

/-- Every invariant holds at reset; it rests on the reset values of the model's phase and trace (log entry 6). -/
def Obligations.ResetIsSafe : Prop := SafeState State.reset

/-- Every run from a safe state, however long, stays safe. -/
def Obligations.RunKeepsSafety : Prop :=
  ∀ (n : Nat) (s t : State), SafeState s → Host.Core.run Sys2Proof.core n s = .next t → SafeState t
end

