-- ==== Sys2Proof/Laws/Decode.lean ====
section
/-!
SUPPORT. The wire format: what the control-byte map answers, when decoding stops, how long a sequence is,
and the bytes of the production that stands for a frame.
-/

namespace Sys2Proof

/-- A control byte selects no rate exactly when it is no baud-select code. -/
theorem baudOfControl_eq_none_iff :
    ∀ c, baudOfControl c = none ↔ isBaudSelect c = false := by decide

/-- The instruction of a baud-select code is the escape code and that code. -/
theorem baudOfControl_encode :
    ∀ c, ∀ i ∈ baudOfControl c,
      encode i = [0xFF#8, c] ∧ i.direction = some .hostToDevice ∧ i.wf = true := by decide

/-- An instruction that travels has at least one byte. -/
theorem encode_length_pos {i : Instr} {dir : Direction} (h : i.direction = some dir) :
    0 < (encode i).length := by
  cases i <;> simp_all [Instr.direction, encode]

/-- Host to device, only the empty stream and the two cut-short tails hold no complete sequence. -/
theorem decode_host_error {bs : List Byte} {e : DecodeError}
    (h : decode .hostToDevice bs = .error e) :
    bs = [] ∨ bs = [0xFF#8] ∨ bs = [0xFF#8, 0x01#8] := by
  rcases bs with _ | ⟨b, bs⟩
  · simp
  simp only [decode, Config.esc] at h
  split at h
  · subst b
    rcases bs with _ | ⟨c, bs⟩
    · simp
    simp only [decodeControl, Config.high, Config.esc] at h
    split at h
    · cases bs <;> simp_all
    · split at h
      · simp at h
      · split at h <;> simp at h
  · simp at h

/-- The production is well-formed and travels device to host. -/
theorem productionOf_wf (v : Frame) :
    (productionOf v).wf = true ∧ (productionOf v).direction = some .deviceToHost := by
  unfold productionOf
  split
  · simp [Instr.wf, Instr.direction]
  · split <;> simp_all [Instr.wf, Instr.direction]

/-- The bytes of the production that stands for a frame are the bytes `Encode` writes. -/
theorem encode_productionOf (v : Frame) : encode (productionOf v) = Machine.encodeFrame v := by
  unfold productionOf Machine.encodeFrame Machine.sideBit Machine.dataBits
  split
  · simp [encode, Config.esc, Config.high]
  · split
    · simp_all [encode, Config.esc]
    · simp [encode]

/-- A byte under the full mask is itself. -/
theorem and_fullMask (b : Byte) : b &&& 0xFF#8 = b := BitVec.and_allOnes

end Sys2Proof
end

