-- ==== Sys2Proof/Laws/State.lean ====
section
/-! SUPPORT. One lemma per field per update of State, so that no later proof unfolds an update. -/

namespace Sys2Proof.Machine

@[simp] theorem setDState_dstate (d : DState) (s : State) : (setDState d s).dstate = d := rfl
@[simp] theorem setDState_talk (d : DState) (s : State) : (setDState d s).talk = s.talk := rfl
@[simp] theorem setDState_phase (d : DState) (s : State) : (setDState d s).phase = s.phase := rfl
@[simp] theorem setDState_adapter (d : DState) (s : State) : (setDState d s).adapter = s.adapter := rfl
@[simp] theorem setDState_hostPort (d : DState) (s : State) : (setDState d s).hostPort = s.hostPort := rfl
@[simp] theorem setDState_pending (d : DState) (s : State) : (setDState d s).pending = s.pending := rfl
@[simp] theorem setDState_trace (d : DState) (s : State) : (setDState d s).trace = s.trace := rfl

@[simp] theorem setTalk_dstate (b : Bool) (s : State) : (setTalk b s).dstate = s.dstate := rfl
@[simp] theorem setTalk_talk (b : Bool) (s : State) : (setTalk b s).talk = b := rfl
@[simp] theorem setTalk_phase (b : Bool) (s : State) : (setTalk b s).phase = s.phase := rfl
@[simp] theorem setTalk_adapter (b : Bool) (s : State) : (setTalk b s).adapter = s.adapter := rfl
@[simp] theorem setTalk_hostPort (b : Bool) (s : State) : (setTalk b s).hostPort = s.hostPort := rfl
@[simp] theorem setTalk_pending (b : Bool) (s : State) : (setTalk b s).pending = s.pending := rfl
@[simp] theorem setTalk_trace (b : Bool) (s : State) : (setTalk b s).trace = s.trace := rfl

@[simp] theorem setPhase_dstate (p : Phase) (s : State) : (setPhase p s).dstate = s.dstate := rfl
@[simp] theorem setPhase_talk (p : Phase) (s : State) : (setPhase p s).talk = s.talk := rfl
@[simp] theorem setPhase_phase (p : Phase) (s : State) : (setPhase p s).phase = p := rfl
@[simp] theorem setPhase_adapter (p : Phase) (s : State) : (setPhase p s).adapter = s.adapter := rfl
@[simp] theorem setPhase_hostPort (p : Phase) (s : State) : (setPhase p s).hostPort = s.hostPort := rfl
@[simp] theorem setPhase_pending (p : Phase) (s : State) : (setPhase p s).pending = s.pending := rfl
@[simp] theorem setPhase_trace (p : Phase) (s : State) : (setPhase p s).trace = s.trace := rfl

@[simp] theorem setAdapter_dstate (a : Adapter) (s : State) : (setAdapter a s).dstate = s.dstate := rfl
@[simp] theorem setAdapter_talk (a : Adapter) (s : State) : (setAdapter a s).talk = s.talk := rfl
@[simp] theorem setAdapter_phase (a : Adapter) (s : State) : (setAdapter a s).phase = s.phase := rfl
@[simp] theorem setAdapter_adapter (a : Adapter) (s : State) : (setAdapter a s).adapter = a := rfl
@[simp] theorem setAdapter_hostPort (a : Adapter) (s : State) : (setAdapter a s).hostPort = s.hostPort := rfl
@[simp] theorem setAdapter_pending (a : Adapter) (s : State) : (setAdapter a s).pending = s.pending := rfl
@[simp] theorem setAdapter_trace (a : Adapter) (s : State) : (setAdapter a s).trace = s.trace := rfl

@[simp] theorem setHostPort_dstate (h : HostPort) (s : State) : (setHostPort h s).dstate = s.dstate := rfl
@[simp] theorem setHostPort_talk (h : HostPort) (s : State) : (setHostPort h s).talk = s.talk := rfl
@[simp] theorem setHostPort_phase (h : HostPort) (s : State) : (setHostPort h s).phase = s.phase := rfl
@[simp] theorem setHostPort_adapter (h : HostPort) (s : State) : (setHostPort h s).adapter = s.adapter := rfl
@[simp] theorem setHostPort_hostPort (h : HostPort) (s : State) : (setHostPort h s).hostPort = h := rfl
@[simp] theorem setHostPort_pending (h : HostPort) (s : State) : (setHostPort h s).pending = s.pending := rfl
@[simp] theorem setHostPort_trace (h : HostPort) (s : State) : (setHostPort h s).trace = s.trace := rfl

@[simp] theorem setPending_dstate (ops : List Op) (s : State) : (setPending ops s).dstate = s.dstate := rfl
@[simp] theorem setPending_talk (ops : List Op) (s : State) : (setPending ops s).talk = s.talk := rfl
@[simp] theorem setPending_phase (ops : List Op) (s : State) : (setPending ops s).phase = s.phase := rfl
@[simp] theorem setPending_adapter (ops : List Op) (s : State) : (setPending ops s).adapter = s.adapter := rfl
@[simp] theorem setPending_hostPort (ops : List Op) (s : State) : (setPending ops s).hostPort = s.hostPort := rfl
@[simp] theorem setPending_pending (ops : List Op) (s : State) : (setPending ops s).pending = ops := rfl
@[simp] theorem setPending_trace (ops : List Op) (s : State) : (setPending ops s).trace = s.trace := rfl

@[simp] theorem record_dstate (c : Call) (s : State) : (record c s).dstate = s.dstate := rfl
@[simp] theorem record_talk (c : Call) (s : State) : (record c s).talk = s.talk := rfl
@[simp] theorem record_phase (c : Call) (s : State) : (record c s).phase = s.phase := rfl
@[simp] theorem record_adapter (c : Call) (s : State) : (record c s).adapter = s.adapter := rfl
@[simp] theorem record_hostPort (c : Call) (s : State) : (record c s).hostPort = s.hostPort := rfl
@[simp] theorem record_pending (c : Call) (s : State) : (record c s).pending = s.pending := rfl
@[simp] theorem record_trace (c : Call) (s : State) : (record c s).trace = s.trace ++ [c] := rfl

end Sys2Proof.Machine
end

