-- ==== Sys2Proof/Laws/Ops.lean ====
section
/-!
SUPPORT. One lemma per shared operation that says everything it can do, for later proofs to cite in place
of unfolding it: chaining and the lifecycle guard, the two uses of `TALK`, the writes to the host, the
body of `T.HOST`, the environment's moves, the dispatcher, and the step (`step_cases`).
-/

namespace Sys2Proof.Machine

/-! ## Chaining and the lifecycle guard -/

@[simp] theorem andThen_next (s : State) (k : State → Host.Outcome State Fault Refusal) :
    andThen (.next s) k = k s := rfl

@[simp] theorem andThen_refused (r : Refusal) (k : State → Host.Outcome State Fault Refusal) :
    andThen (.refused r) k = .refused r := rfl

theorem andThen_eq_next {o : Host.Outcome State Fault Refusal}
    {k : State → Host.Outcome State Fault Refusal} {t : State} :
    andThen o k = .next t ↔ ∃ u, o = .next u ∧ k u = .next t := by
  cases o <;> simp [andThen]

theorem whenOpen_opened {s : State} (h : s.phase = .opened) (o : Host.Outcome State Fault Refusal) :
    whenOpen s o = o := by simp [whenOpen, h]

theorem whenOpen_not_opened {s : State} (h : s.phase ≠ .opened)
    (o : Host.Outcome State Fault Refusal) : whenOpen s o = .refused .tickOutsideLifecycle := by
  unfold whenOpen
  cases hp : s.phase <;> simp_all

theorem whenOpen_eq_next {s t : State} {o : Host.Outcome State Fault Refusal} :
    whenOpen s o = .next t ↔ s.phase = .opened ∧ o = .next t := by
  by_cases h : s.phase = .opened
  · simp [whenOpen_opened h, h]
  · simp [whenOpen_not_opened h, h]

/-! ## `TALK` -/

/-- The prologue of `T.HOST` sets `TALK` and calls `EnterTalk()` where it was clear. -/
theorem seizeBus_eq (s : State) :
    seizeBus s = { s with
      talk := true
      adapter := seizedAdapter s
      trace := s.trace ++ seizeCalls s.talk } := by
  cases s with
  | mk d talk p a h ops tr =>
    cases talk <;> simp [seizeBus, seizedAdapter, seizeCalls, enterTalk, record, setAdapter, setTalk]

/-- The body of `T.REL` clears `TALK` and calls `EnterListen()` where it was set. -/
theorem releaseBus_eq (s : State) :
    releaseBus s = { s with
      talk := false
      adapter := if s.talk then { s.adapter with direction := .listen } else s.adapter
      trace := s.trace ++ releaseCalls s.talk } := by
  cases s with
  | mk d talk p a h ops tr =>
    cases talk <;> simp [releaseBus, releaseCalls, enterListen, record, setAdapter, setTalk]

/-! ## The Host Port -/

/-- Writes to the host append to the outbound stream and to the trace, in order. -/
theorem hostWrites_eq (bs : List Byte) (s : State) :
    hostWrites bs s = { s with
      hostPort := { s.hostPort with outbound := s.hostPort.outbound ++ bs }
      trace := s.trace ++ bs.map .hostWrite } := by
  induction bs generalizing s with
  | nil => simp [hostWrites]
  | cons b bs ih => simp [hostWrites, ih, hostWrite, record, setHostPort]

/-! ## The body of `T.HOST` -/

/-- The adapter after the decoder's call. -/
def commandAdapter : Option UartCommand → Adapter → Adapter
  | none, a => a
  | some (.transmit f), a => transmitting f a
  | some (.configure rate), a => configured rate a

@[simp] theorem seizedAdapter_txBusy (s : State) :
    (seizedAdapter s).txBusy = s.adapter.txBusy := by
  unfold seizedAdapter; split <;> rfl

@[simp] theorem seizedAdapter_line (s : State) : (seizedAdapter s).line = s.adapter.line := by
  unfold seizedAdapter; split <;> rfl

@[simp] theorem seizedAdapter_rxWaiting (s : State) :
    (seizedAdapter s).rxWaiting = s.adapter.rxWaiting := by
  unfold seizedAdapter; split <;> rfl

@[simp] theorem seizedAdapter_receiving (s : State) :
    (seizedAdapter s).receiving = s.adapter.receiving := by
  unfold seizedAdapter; split <;> rfl

@[simp] theorem seizedAdapter_upset (s : State) : (seizedAdapter s).upset = s.adapter.upset := by
  unfold seizedAdapter; split <;> rfl

/-- The state after the body of `T.HOST` has run for the byte `b`. -/
def afterHostByte (b : Byte) (s : State) : State :=
  { s with
    dstate := (decoderStep s.dstate b).1
    talk := true
    adapter := commandAdapter (decoderStep s.dstate b).2 (seizedAdapter s)
    hostPort := { s.hostPort with inbound := s.hostPort.inbound.tail }
    trace := s.trace ++
      (.hostRead b :: seizeCalls s.talk ++ commandCalls (decoderStep s.dstate b).2) }

/-- The body of `T.HOST` completes with that state, unless it would transmit while the holding register
is not ready. -/
theorem hostByte_eq (b : Byte) (s : State) :
    hostByte b s =
      if s.adapter.txBusy = true ∧ ∃ f, (decoderStep s.dstate b).2 = some (.transmit f) then
        .refused .transmitWhileBusy
      else .next (afterHostByte b s) := by
  have hseize : seizeBus (hostRead b s) = { s with
      talk := true
      adapter := seizedAdapter s
      hostPort := { s.hostPort with inbound := s.hostPort.inbound.tail }
      trace := s.trace ++ (.hostRead b :: seizeCalls s.talk) } := by
    rw [seizeBus_eq]
    simp only [hostRead, record, setHostPort, List.append_assoc, List.singleton_append]
    rfl
  unfold hostByte decodeByte
  rw [hseize]
  unfold afterHostByte
  generalize decoderStep s.dstate b = r
  obtain ⟨d, c⟩ := r
  have hb : (seizedAdapter s).txBusy = s.adapter.txBusy := seizedAdapter_txBusy s
  generalize seizedAdapter s = a at hb ⊢
  rcases c with _ | ⟨f⟩ | ⟨rate⟩
  · simp [issue, setDState, commandAdapter, commandCalls]
  · cases hs : s.adapter.txBusy <;> rw [hs] at hb <;>
      simp [issue, uartTransmit, hb, enqueueFrame, record, setAdapter, setDState, commandAdapter,
        commandCalls, transmitting]
  · simp [issue, uartConfigure, record, setAdapter, setDState, commandAdapter, commandCalls,
      configured]

theorem hostByte_eq_next {b : Byte} {s t : State} :
    hostByte b s = .next t ↔
      ¬(s.adapter.txBusy = true ∧ ∃ f, (decoderStep s.dstate b).2 = some (.transmit f)) ∧
        t = afterHostByte b s := by
  rw [hostByte_eq]
  split
  · rename_i h
    exact ⟨fun k => by simp at k, fun k => absurd h k.1⟩
  · rename_i h
    exact ⟨fun k => ⟨h, by simpa using k.symm⟩, fun k => by rw [k.2]⟩

theorem hostByte_of_free {b : Byte} {s : State} (h : s.adapter.txBusy = false) :
    hostByte b s = .next (afterHostByte b s) := by
  simp [hostByte_eq, h]

/-! ## The environment -/

/-- What the environment never touches in an adapter that no configure has upset: its rate, enable state and
mode; and what it can do to a frame on its way out: let it leave, and then it has left. -/
structure AdapterFrame (a a' : Adapter) : Prop where
  upset : a'.upset = a.upset
  rate : a.upset = false → a'.rate = a.rate
  enabled : a.upset = false → a'.enabled = a.enabled
  direction : a.upset = false → a'.direction = a.direction
  draining : a.upset = false → ∀ f, a.line = .draining f → a'.line = .draining f ∨ a'.line = .left f
  gone : a.upset = false → ∀ f, a.line = .left f → a'.line = .left f

theorem AdapterFrame.refl (a : Adapter) : AdapterFrame a a :=
  ⟨rfl, fun _ => rfl, fun _ => rfl, fun _ => rfl, fun _ _ h => .inl h, fun _ _ h => h⟩

theorem AdapterFrame.trans {a b c : Adapter} (h : AdapterFrame a b) (k : AdapterFrame b c) :
    AdapterFrame a c := by
  have up (hu : a.upset = false) : b.upset = false := h.upset.trans hu
  refine ⟨k.upset.trans h.upset, fun hu => (k.rate (up hu)).trans (h.rate hu),
    fun hu => (k.enabled (up hu)).trans (h.enabled hu),
    fun hu => (k.direction (up hu)).trans (h.direction hu), ?_,
    fun hu f hl => k.gone (up hu) f (h.gone hu f hl)⟩
  intro hu f hl
  rcases h.draining hu f hl with hb | hb
  · exact k.draining (up hu) f hb
  · exact .inr (k.gone (up hu) f hb)

theorem adapterAfterMove_frame (a : Adapter) (m : EnvMove) :
    AdapterFrame a (adapterAfterMove a m) := by
  cases m <;> constructor <;> simp_all [adapterAfterMove] <;> split <;> simp_all

/-- What the environment never touches: everything but the adapter and the Host Port. -/
structure EnvFrame (s s' : State) : Prop where
  dstate : s'.dstate = s.dstate
  talk : s'.talk = s.talk
  phase : s'.phase = s.phase
  pending : s'.pending = s.pending
  trace : s'.trace = s.trace
  adapter : AdapterFrame s.adapter s'.adapter

theorem EnvFrame.refl (s : State) : EnvFrame s s := ⟨rfl, rfl, rfl, rfl, rfl, .refl _⟩

theorem EnvFrame.trans {s t u : State} (h : EnvFrame s t) (k : EnvFrame t u) : EnvFrame s u :=
  ⟨k.dstate.trans h.dstate, k.talk.trans h.talk, k.phase.trans h.phase,
   k.pending.trans h.pending, k.trace.trans h.trace, h.adapter.trans k.adapter⟩

theorem envMove_frame (m : EnvMove) (s : State) : EnvFrame s (envMove m s) :=
  ⟨rfl, rfl, rfl, rfl, rfl, adapterAfterMove_frame s.adapter m⟩

theorem envMoves_frame (ms : List EnvMove) (s : State) : EnvFrame s (envMoves ms s) := by
  induction ms generalizing s with
  | nil => exact EnvFrame.refl s
  | cons m ms ih => exact (envMove_frame m s).trans (ih _)

/-- The environment neither reads nor writes what is called next. -/
theorem envMoves_setPending (ms : List EnvMove) (ops : List Op) (s : State) :
    envMoves ms (setPending ops s) = setPending ops (envMoves ms s) := by
  induction ms generalizing s with
  | nil => rfl
  | cons m ms ih => exact ih (envMove m s)

/-- After the busy guard has answered false, no move of the environment makes the register busy. -/
theorem envMovesAfterGuard_txBusy (ms : List EnvMove) (s : State) (h : s.adapter.txBusy = false) :
    (envMovesAfterGuard ms s).adapter.txBusy = false := by
  unfold envMovesAfterGuard
  induction ms generalizing s with
  | nil => exact h
  | cons m ms ih =>
    rw [List.filter_cons]
    split
    · rename_i hm
      refine ih _ ?_
      cases m <;> simp_all [envMove, adapterAfterMove, allowedAfterGuard]
      split <;> simp_all
    · exact ih s h

/-! ## The dispatcher -/

/-- The state in which the selected branch starts: the environment has moved to `e`, and the queries
`qs` are in the trace. -/
def polled (e : State) (qs : List Call) : State := { e with trace := e.trace ++ qs }

/-- Everything the dispatcher can select, with what its answers say of the environment `e` at the time
and with the queries made (Table R116). -/
theorem poll_cases (m : TickMoves) (s : State) :
    ∃ e, EnvFrame s e ∧
      ((∃ v, e.adapter.rxWaiting = some v ∧ poll m s = (.tRx, polled e [.uartRxReady true])) ∨
       (e.adapter.txBusy = true ∧
          poll m s = (.tBusy, polled e [.uartRxReady false, .uartTxBusy true])) ∨
       (∃ b rest, e.adapter.txBusy = false ∧ e.hostPort.inbound = b :: rest ∧
          poll m s = (.tHost, polled e [.uartRxReady false, .uartTxBusy false,
            .hostAvail (rest.length + 1)])) ∨
       (lineComplete e.adapter.line = true ∧
          poll m s = (.tRel, polled e [.uartRxReady false, .uartTxBusy false,
            .hostAvail 0, .uartTxComplete true])) ∨
       (lineComplete e.adapter.line = false ∧
          poll m s = (.tIdle, polled e [.uartRxReady false, .uartTxBusy false,
            .hostAvail 0, .uartTxComplete false]))) := by
  have h1 := envMoves_frame m.beforeRxReady s
  generalize he1 : envMoves m.beforeRxReady s = e1 at h1
  rcases hr : rxReady e1 with _ | _
  swap
  · obtain ⟨v, hv⟩ := Option.isSome_iff_exists.mp hr
    exact ⟨e1, h1, .inl ⟨v, hv, by simp [poll, he1, hr, askRxReady, record, polled]⟩⟩
  have h2 := envMoves_frame m.beforeTxBusy (askRxReady e1)
  generalize he2 : envMoves m.beforeTxBusy (askRxReady e1) = e2 at h2
  have hp1 : poll m s = pollTxBusy m (askRxReady e1) := by simp [poll, he1, hr]
  have ht2 : e2.trace = s.trace ++ [.uartRxReady false] := by
    rw [h2.trace]; simp [askRxReady, hr, h1.trace]
  have f2 : EnvFrame s { e2 with trace := s.trace } :=
    ⟨h2.dstate.trans h1.dstate, h2.talk.trans h1.talk, h2.phase.trans h1.phase,
     h2.pending.trans h1.pending, rfl, h1.adapter.trans h2.adapter⟩
  rcases hb : e2.adapter.txBusy with _ | _
  swap
  · refine ⟨_, f2, .inr (.inl ⟨hb, ?_⟩)⟩
    rw [hp1]
    simp [pollTxBusy, he2, txBusy, hb, askTxBusy, record, polled, ht2]
  have h3 : EnvFrame (askTxBusy e2) (envMovesAfterGuard m.beforeAvail (askTxBusy e2)) :=
    envMoves_frame _ _
  have hb3 := envMovesAfterGuard_txBusy m.beforeAvail (askTxBusy e2) hb
  generalize he3 : envMovesAfterGuard m.beforeAvail (askTxBusy e2) = e3 at h3 hb3
  have hp2 : poll m s = pollAvail m (askTxBusy e2) := by
    rw [hp1]; simp [pollTxBusy, he2, txBusy, hb]
  have ht3 : e3.trace = s.trace ++ [.uartRxReady false, .uartTxBusy false] := by
    rw [h3.trace]; simp [askTxBusy, txBusy, hb, ht2]
  have f3 : EnvFrame s { e3 with trace := s.trace } :=
    ⟨h3.dstate.trans f2.dstate, h3.talk.trans f2.talk, h3.phase.trans f2.phase,
     h3.pending.trans f2.pending, rfl, f2.adapter.trans h3.adapter⟩
  rcases hi : e3.hostPort.inbound with _ | ⟨b, rest⟩
  swap
  · refine ⟨_, f3, .inr (.inr (.inl ⟨b, rest, hb3, hi, ?_⟩))⟩
    rw [hp2]
    simp [pollAvail, he3, availCount, hi, askAvail, record, polled, ht3]
  have h4 : EnvFrame (askAvail e3) (envMovesAfterGuard m.beforeTxComplete (askAvail e3)) :=
    envMoves_frame _ _
  generalize he4 : envMovesAfterGuard m.beforeTxComplete (askAvail e3) = e4 at h4
  have hp3 : poll m s = pollTxComplete m (askAvail e3) := by
    rw [hp2]; simp [pollAvail, he3, availCount, hi]
  have ht4 : e4.trace = s.trace ++ [.uartRxReady false, .uartTxBusy false, .hostAvail 0] := by
    rw [h4.trace]; simp [askAvail, availCount, hi, ht3]
  have f4 : EnvFrame s { e4 with trace := s.trace } :=
    ⟨h4.dstate.trans f3.dstate, h4.talk.trans f3.talk, h4.phase.trans f3.phase,
     h4.pending.trans f3.pending, rfl, f3.adapter.trans h4.adapter⟩
  rcases hc : lineComplete e4.adapter.line with _ | _
  · refine ⟨_, f4, .inr (.inr (.inr (.inr ⟨hc, ?_⟩)))⟩
    rw [hp3]
    simp [pollTxComplete, he4, txComplete, hc, askTxComplete, record, polled, ht4]
  · refine ⟨_, f4, .inr (.inr (.inr (.inl ⟨hc, ?_⟩)))⟩
    rw [hp3]
    simp [pollTxComplete, he4, txComplete, hc, askTxComplete, record, polled, ht4]

/-! ## The step -/

/-- What a tick can do, from the environment `e` its branch finds: the five branches. -/
inductive TickDoes (e t : State) : Prop where
  | rx (v : Frame) (waiting : e.adapter.rxWaiting = some v)
      (result : t = { e with
        adapter := { e.adapter with rxWaiting := none }
        hostPort := { e.hostPort with outbound := e.hostPort.outbound ++ encodeFrame v }
        trace := e.trace ++
          (.uartRxReady true :: .uartReceive v :: (encodeFrame v).map .hostWrite) })
  | busy (result : t = polled e [.uartRxReady false, .uartTxBusy true])
  | host (b : Byte) (rest : List Byte) (free : e.adapter.txBusy = false)
      (waiting : e.hostPort.inbound = b :: rest)
      (result : t = afterHostByte b (polled e [.uartRxReady false, .uartTxBusy false,
        .hostAvail (rest.length + 1)]))
  | rel (complete : lineComplete e.adapter.line = true)
      (result : t = releaseBus (polled e [.uartRxReady false, .uartTxBusy false, .hostAvail 0,
        .uartTxComplete true]))
  | idle (result : t = polled e [.uartRxReady false, .uartTxBusy false, .hostAvail 0,
        .uartTxComplete false])

/-- The branch `poll` selects, and what it then does. -/
theorem tick_cases {m : TickMoves} {s : State} (open_ : s.phase = .opened) :
    ∃ e t, EnvFrame s e ∧ exec (poll m s).1 (poll m s).2 = .next t ∧ TickDoes e t ∧
      ((poll m s).1 = .tHost → e.adapter.txBusy = false) := by
  obtain ⟨e, hf, h⟩ := poll_cases m s
  have ho : ∀ qs, (polled e qs).phase = .opened := fun qs => by simp [polled, hf.phase, open_]
  rcases h with ⟨v, hv, hp⟩ | ⟨_, hp⟩ | ⟨b, rest, hb, hi, hp⟩ | ⟨hc, hp⟩ | ⟨_, hp⟩ <;> rw [hp]
  · refine ⟨e, _, hf, ?_, .rx v hv rfl, by simp⟩
    have hw : (polled e [.uartRxReady true]).adapter.rxWaiting = some v := hv
    simp only [exec, execTRx, whenOpen_opened (ho _), hw, hostWrites_eq]
    simp [uartReceive, record, setAdapter, polled]
  · exact ⟨e, _, hf, by simp [exec, execTBusy, whenOpen_opened (ho _)], .busy rfl, by simp⟩
  · refine ⟨e, _, hf, ?_, .host b rest hb hi rfl, fun _ => hb⟩
    have : (polled e [.uartRxReady false, .uartTxBusy false,
        .hostAvail (rest.length + 1)]).hostPort.inbound = b :: rest := hi
    simp only [exec, execTHost, whenOpen_opened (ho _), this]
    exact hostByte_of_free hb
  · exact ⟨e, _, hf, by simp [exec, execTRel, whenOpen_opened (ho _)], .rel hc rfl, by simp⟩
  · exact ⟨e, _, hf, by simp [exec, execTIdle, whenOpen_opened (ho _)], .idle rfl, by simp⟩

/-- A branch of a tick, run outside the lifecycle, is refused. -/
theorem poll_exec_not_opened {m : TickMoves} {s : State} (h : s.phase ≠ .opened) :
    exec (poll m s).1 (poll m s).2 = .refused .tickOutsideLifecycle := by
  obtain ⟨e, hf, hc⟩ := poll_cases m s
  have ho : ∀ qs, (polled e qs).phase ≠ .opened := fun qs => by simpa [polled, hf.phase] using h
  rcases hc with ⟨v, _, hp⟩ | ⟨_, hp⟩ | ⟨b, rest, _, _, hp⟩ | ⟨_, hp⟩ | ⟨_, hp⟩ <;> rw [hp] <;>
    simp [exec, execTRx, execTBusy, execTHost, execTRel, execTIdle, whenOpen_not_opened (ho _)]

/-- Everything one step can do when it answers a next state. -/
inductive StepDoes (s t : State) : Prop where
  | hold (none_ : s.pending = []) (result : t = s)
  | reset (ops : List Op) (next_ : s.pending = .reset :: ops)
      (result : t = resetBlock (setPending ops s))
  | opening (baud : Nat) (before : List EnvMove) (found : AdapterFound) (ops : List Op)
      (next_ : s.pending = .openBridge baud before found :: ops)
      (phase : s.phase = .constructed) (rate : baud ∈ Config.baudTable)
      (result : t = { envMoves before s with
        phase := .opened
        pending := ops
        adapter := { configured baud (envMoves before s).adapter with
          enabled := true, direction := .listen, rxWaiting := found.rxWaiting,
          receiving := found.receiving, txBusy := found.txBusy,
          line := .unreferenced found.txComplete }
        trace := s.trace ++ [.uartConfigure baud, .uartStart, .enterListen] })
  | closing (ops : List Op) (next_ : s.pending = .closeBridge :: ops) (phase : s.phase = .opened)
      (result : t = { s with
        phase := .closed
        pending := ops
        adapter := { s.adapter with
          enabled := false, direction := directionAfterStop s.adapter.direction }
        trace := s.trace ++ [.uartStop] })
  | tick (m : TickMoves) (ops : List Op) (next_ : s.pending = .tick m :: ops)
      (phase : s.phase = .opened) (e : State) (frame : EnvFrame (setPending ops s) e)
      (does : TickDoes e t)

theorem step_cases {s t : State} (h : step s = .next t) : StepDoes s t := by
  unfold step select at h
  split at h
  · rename_i u hsel
    split at hsel <;> simp_all
    · exact .hold ‹_› (by simp_all)
    · exact .reset _ ‹_› (by simp_all)
  · rename_i i u found hsel
    split at hsel
    · simp at hsel
    · simp at hsel
    · rename_i baud before fnd ops hp
      simp only [Selected.run.injEq] at hsel
      obtain ⟨rfl, rfl, rfl⟩ := hsel
      obtain ⟨v, hv, hs⟩ := andThen_eq_next.mp h
      rw [envMoves_setPending] at hv
      have hf := envMoves_frame before s
      cases hph : s.phase <;> simp [exec, execOpenBridge, hf.phase, hph] at hv
      split at hv
      swap
      · simp at hv
      rename_i hr
      refine .opening baud before fnd ops hp hph hr ?_
      simp only [settle, Host.Outcome.next.injEq] at hs hv
      rw [← hs, ← hv]
      simp [hf.trace, adapterFound, setAdapter, enterListen, uartStart, uartConfigure, record, setPhase,
        setPending, configured]
    · rename_i m ops hp
      simp only [Selected.run.injEq] at hsel
      obtain ⟨rfl, rfl, rfl⟩ := hsel
      obtain ⟨v, hv, hs⟩ := andThen_eq_next.mp h
      simp only [settle, Host.Outcome.next.injEq] at hs
      subst hs
      by_cases hph : s.phase = .opened
      · obtain ⟨e, t, hf, hx, hd, _⟩ := tick_cases (m := m) (s := setPending ops s) hph
        rw [hx] at hv
        obtain rfl : t = v := by simpa using hv
        exact .tick m ops hp hph e hf hd
      · rw [poll_exec_not_opened (s := setPending ops s) hph] at hv
        simp at hv
    · rename_i ops hp
      simp only [Selected.run.injEq] at hsel
      obtain ⟨rfl, rfl, rfl⟩ := hsel
      obtain ⟨v, hv, hs⟩ := andThen_eq_next.mp h
      simp only [settle, Host.Outcome.next.injEq] at hs
      subst hs
      cases hph : s.phase <;> simp [exec, execCloseBridge, hph] at hv
      refine .closing ops hp hph ?_
      rw [← hv]
      simp [uartStop, record, setAdapter, setPhase, setPending]

end Sys2Proof.Machine
end

