-- ==== Sys2Proof/Laws/Decoder.lean ====
section
/-!
SUPPORT. The decoder over byte streams, the meaning of a sequence as its `T.HOST` bytes, and runs of
the core.
-/

namespace Sys2Proof.Machine

/-- The decoder over a concatenation. -/
theorem runDecoder_append (d : DState) (bs cs : List Byte) :
    runDecoder d (bs ++ cs) =
      ((runDecoder (runDecoder d bs).1 cs).1,
        (runDecoder d bs).2 ++ (runDecoder (runDecoder d bs).1 cs).2) := by
  induction bs generalizing d with
  | nil => simp [runDecoder]
  | cons b bs ih => simp [runDecoder, ih]

/-- A rate the decoder configures is one of the table. -/
theorem decoderStep_configure :
    ∀ b d rate, (decoderStep d b).2 = some (.configure rate) → rate ∈ Config.baudTable := by
  have h : ∀ b, ∀ rate ∈ baudRate b, rate ∈ Config.baudTable := by decide
  intro b d rate hr
  cases d
  · simp only [decoderStep, decodeIdle] at hr; split at hr <;> simp at hr
  · simp only [decoderStep, decodeEscape] at hr
    split at hr
    · simp at hr
    · split at hr
      · simp at hr
      · split at hr
        · rename_i r hb
          simp only [Option.some.injEq, UartCommand.configure.injEq] at hr
          exact hr ▸ h b r hb
        · simp at hr
  · simp [decoderStep, decodeHigh] at hr
  · simp [decoderStep, decodeInvalid] at hr

/-- `T.HOST` with a byte waiting is its body for that byte. -/
theorem exec_tHost {s : State} {b : Byte} {rest : List Byte} (h : s.phase = .opened)
    (hi : s.hostPort.inbound = b :: rest) : exec .tHost s = hostByte b s := by
  simp [exec, execTHost, whenOpen_opened h, hi]

/-- Every host-to-device sequence has one meaning: the ticks that read it. -/
theorem exec_sequence {i : Instr} {s : State} (h : i.direction = some .hostToDevice) :
    exec i s = runSequence i s := by
  cases i <;> simp [Instr.direction] at h <;> rfl

/-- From a sequence boundary all bytes are still to be read. -/
theorem sequenceRest_idle {i : Instr} {dir : Direction} (h : i.direction = some dir) :
    sequenceRest i .idle = encode i := by
  simp [sequenceRest, bytesAlreadyRead, encode_length_pos h]

/-- Everything the read of one byte of a sequence can do. -/
theorem expectByte_eq (b : Byte) (s : State) :
    expectByte b s =
      match s.hostPort.inbound with
      | [] => .refused .readNotAvailable
      | c :: _ =>
        if c = b then
          if s.adapter.txBusy = true ∧ ∃ f, (decoderStep s.dstate b).2 = some (.transmit f) then
            .refused .transmitWhileBusy
          else .next (afterHostByte b s)
        else .refused .sequenceNotInPort := by
  unfold expectByte
  split <;> simp only [*, hostByte_eq]

/-- Where the byte stands first, it is read as a `T.HOST` tick reads it. -/
theorem expectByte_of_head {b : Byte} {rest : List Byte} {s : State}
    (h : s.hostPort.inbound = b :: rest) : expectByte b s = hostByte b s := by
  simp [expectByte, h]

/-- With the byte waiting and the holding register free, one byte more is read. -/
theorem hostBytes_cons_of_free {b : Byte} {bs rest : List Byte} {s : State}
    (hi : s.hostPort.inbound = b :: rest) (h : s.adapter.txBusy = false) :
    hostBytes (b :: bs) s = hostBytes bs (afterHostByte b s) := by
  simp [hostBytes, expectByte_of_head hi, hostByte_of_free h]

/-- A sequence always has a byte left to read. -/
theorem sequenceRest_cons {i : Instr} {dir : Direction} (h : i.direction = some dir) (d : DState) :
    ∃ b bs, sequenceRest i d = b :: bs := by
  have hl := encode_length_pos h
  have : sequenceRest i d ≠ [] := by
    unfold sequenceRest
    split
    · intro he; rw [List.drop_eq_nil_iff] at he; omega
    · intro he; simp [he] at hl
  exact List.exists_cons_of_ne_nil this

/-- A run of the core goes on from a next state. -/
theorem run_succ {s t : State} (h : step s = .next t) (n : Nat) :
    Host.Core.run Sys2Proof.core (n + 1) s = Host.Core.run Sys2Proof.core n t := by
  have : Sys2Proof.core.step s = .next t := h
  simp only [Host.Core.run, this]

end Sys2Proof.Machine
end

