-- ==== Sys2Proof/Laws/PerInstr.lean ====
section
/-!
SUPPORT. Statements made once per instruction: `SequenceLength` says which format each instruction has
(Table R80): the seven rows of format "none" have no bytes, and a sequence that travels has one byte when
its first byte is no escape code, and two or three when it is (R84, R89).
-/

namespace Sys2Proof.Laws.SequenceLength

/-- The bytes of a well-formed instruction, by its direction and its first byte. -/
def Statement (i : Instr) : Prop :=
  i.wf = true →
    (i.direction = none → encode i = []) ∧
    (i.direction ≠ none →
      ((encode i).head? = some 0xFF#8 ∧ ((encode i).length = 2 ∨ (encode i).length = 3)) ∨
      ((encode i).head? ≠ some 0xFF#8 ∧ (encode i).length = 1))

theorem data (dd : Byte) : Statement (.data dd) := by
  intro h
  simp_all [Instr.direction, Instr.wf, encode]

theorem dataff : Statement .dataff := by simp [Statement, Instr.direction, encode]
theorem high (dd : Byte) : Statement (.high dd) := by simp [Statement, Instr.direction, encode]
theorem baud0 : Statement .baud0 := by simp [Statement, Instr.direction, encode]
theorem baud1 : Statement .baud1 := by simp [Statement, Instr.direction, encode]
theorem baud2 : Statement .baud2 := by simp [Statement, Instr.direction, encode]
theorem baud3 : Statement .baud3 := by simp [Statement, Instr.direction, encode]
theorem baud4 : Statement .baud4 := by simp [Statement, Instr.direction, encode]
theorem baud5 : Statement .baud5 := by simp [Statement, Instr.direction, encode]
theorem baud6 : Statement .baud6 := by simp [Statement, Instr.direction, encode]
theorem baud7 : Statement .baud7 := by simp [Statement, Instr.direction, encode]
theorem baud8 : Statement .baud8 := by simp [Statement, Instr.direction, encode]
theorem baud9 : Statement .baud9 := by simp [Statement, Instr.direction, encode]
theorem illegal (cc : Byte) : Statement (.illegal cc) := by
  simp [Statement, Instr.direction, encode]

theorem encLit (dd : Byte) : Statement (.encLit dd) := by
  intro h
  simp_all [Instr.direction, Instr.wf, encode]

theorem encEsc : Statement .encEsc := by simp [Statement, Instr.direction, encode]
theorem encHigh (dd : Byte) : Statement (.encHigh dd) := by
  simp [Statement, Instr.direction, encode]

theorem tRx : Statement .tRx := by simp [Statement, Instr.direction, encode]
theorem tBusy : Statement .tBusy := by simp [Statement, Instr.direction, encode]
theorem tHost : Statement .tHost := by simp [Statement, Instr.direction, encode]
theorem tRel : Statement .tRel := by simp [Statement, Instr.direction, encode]
theorem tIdle : Statement .tIdle := by simp [Statement, Instr.direction, encode]
theorem openBridge (baud : Nat) : Statement (.openBridge baud) := by
  simp [Statement, Instr.direction, encode]

theorem closeBridge : Statement .closeBridge := by simp [Statement, Instr.direction, encode]

end Sys2Proof.Laws.SequenceLength
end

