-- ==== Sys2Proof/Laws/Trace.lean ====
section
/-!
SUPPORT. What is read off a trace distributes over appending, and what a block of writes to the host
adds to each reading.
-/

namespace Sys2Proof.Machine

theorem actionTrace_append (a b : List Call) :
    actionTrace (a ++ b) = actionTrace a ++ actionTrace b := by simp [actionTrace]

theorem bytesRead_append (a b : List Call) :
    bytesRead (a ++ b) = bytesRead a ++ bytesRead b := by simp [bytesRead]

theorem bytesWritten_append (a b : List Call) :
    bytesWritten (a ++ b) = bytesWritten a ++ bytesWritten b := by simp [bytesWritten]

theorem framesReceived_append (a b : List Call) :
    framesReceived (a ++ b) = framesReceived a ++ framesReceived b := by simp [framesReceived]

theorem uartCommands_append (a b : List Call) :
    uartCommands (a ++ b) = uartCommands a ++ uartCommands b := by simp [uartCommands]

theorem directionCalls_append (a b : List Call) :
    directionCalls (a ++ b) = directionCalls a ++ directionCalls b := by simp [directionCalls]

theorem bytesWritten_writes (bs : List Byte) : bytesWritten (bs.map .hostWrite) = bs := by
  induction bs <;> simp_all [bytesWritten]

/-- Writes to the host read nothing, receive nothing and command nothing. -/
theorem writes_are_only_writes (bs : List Byte) :
    bytesRead (bs.map .hostWrite) = [] ∧ framesReceived (bs.map .hostWrite) = [] ∧
      uartCommands (bs.map .hostWrite) = [] ∧ directionCalls (bs.map .hostWrite) = [] := by
  induction bs <;> simp_all [bytesRead, framesReceived, uartCommands, directionCalls]

theorem encodeFrame_length_le (v : Frame) : (encodeFrame v).length ≤ 3 := by
  unfold encodeFrame
  split
  · simp
  · split <;> simp

/-- Appending a direction other than the last keeps a list alternating. -/
theorem alternates_append {l : List BusDirection} {x : BusDirection} (h : alternates l = true)
    (hl : ∀ y, l.getLast? = some y → y ≠ x) : alternates (l ++ [x]) = true := by
  induction l with
  | nil => rfl
  | cons a l ih =>
    cases l with
    | nil => simpa [alternates] using hl a rfl
    | cons b l =>
      simp only [alternates, List.cons_append, Bool.and_eq_true] at h ⊢
      exact ⟨h.1, ih h.2 fun y hy => hl y (by simpa using hy)⟩

end Sys2Proof.Machine
end

