-- ==== Sys2Proof/Machine/Ports.lean ====
section
/-!
DEFINITION. The port rendering of the interfaces (R74, Table R74). The spec offers it as its own rendering
that adds no behaviour: the command ports say which operation is called, the other input ports what the
environment would answer, the strobes are the calls of a trace, and `talk` and `dstate` are for
observation only (R216). No step of the machine reads this file.
-/

namespace Sys2Proof.Machine

/-- One bit of a Bool. -/
def portBit (b : Bool) : BitVec 1 := if b then 1#1 else 0#1

/-- The index `0` to `9` of a rate of `BAUD_TABLE` (92 D13). -/
def baudSel (rate : Nat) : Option (BitVec 4) := (Config.baudTable.idxOf? rate).map (BitVec.ofNat 4)

/-! ## The command ports -/

/-- The command ports. `open_sel` is meaningful only while `op_open` is 1. -/
structure CommandPorts where
  rst : BitVec 1
  opOpen : BitVec 1
  openSel : Option (BitVec 4)
  opClose : BitVec 1
  opTick : BitVec 1
deriving DecidableEq, Repr

/-- No operation is called. -/
def noCommand : CommandPorts :=
  { rst := 0#1, opOpen := 0#1, openSel := none, opClose := 0#1, opTick := 0#1 }

/-- The command ports while an operation is called. -/
def commandOf : Op → CommandPorts
  | .reset => { noCommand with rst := 1#1 }
  | .openBridge baud _ _ => { noCommand with opOpen := 1#1, openSel := baudSel baud }
  | .tick _ => { noCommand with opTick := 1#1 }
  | .closeBridge => { noCommand with opClose := 1#1 }

/-- `OPEN(BAUD_TABLE[open_sel])`, for `open_sel` from 0 to 9. -/
def openOfSel (before : List EnvMove) (found : AdapterFound) (sel : BitVec 4) : Option Op :=
  Config.baudTable[sel.toNat]?.map fun baud => .openBridge baud before found

/-- The operation the command ports call, with the environment's part of it, which is on no command port.
Exactly one of the four is asserted: operations never overlap (R215, R243). -/
def opOfCommand (p : CommandPorts) (before : List EnvMove) (found : AdapterFound)
    (moves : TickMoves) : Option Op :=
  if (p.rst, p.opOpen, p.opClose, p.opTick) = (1#1, 0#1, 0#1, 0#1) then some .reset
  else if (p.rst, p.opOpen, p.opClose, p.opTick) = (0#1, 1#1, 0#1, 0#1) then
    p.openSel.bind (openOfSel before found)
  else if (p.rst, p.opOpen, p.opClose, p.opTick) = (0#1, 0#1, 1#1, 0#1) then some .closeBridge
  else if (p.rst, p.opOpen, p.opClose, p.opTick) = (0#1, 0#1, 0#1, 1#1) then some (.tick moves)
  else none

/-! ## The input ports -/

/-- The input ports. `rx_frame` and `h_rdata` are meaningful only while `rx_ready` and `h_avail` are 1. -/
structure InPorts where
  command : CommandPorts
  rxReady : BitVec 1
  rxFrame : Option Frame
  txBusy : BitVec 1
  txComplete : BitVec 1
  hAvail : BitVec 1
  hRdata : Option Byte
deriving DecidableEq, Repr

/-- What the input ports show: the operation called next, and what the queries would answer now. -/
def inPorts (s : State) : InPorts where
  command := (s.pending.head?.map commandOf).getD noCommand
  rxReady := portBit (rxReady s)
  rxFrame := s.adapter.rxWaiting
  txBusy := portBit (txBusy s)
  txComplete := portBit (txComplete s)
  hAvail := portBit (1 ≤ availCount s)
  hRdata := s.hostPort.inbound.head?

/-! ## The output ports -/

/-- The two registers as the output ports `talk` and `dstate` show them (R22, R24). -/
def talkPort (s : State) : BitVec 1 := talkBit s.talk
def dstatePort (s : State) : BitVec 2 := dstateBits s.dstate

/-- The output strobes, each with its operand. There is none for `EnterOffline()` (R52). -/
inductive Strobe where
  | rxTake
  | txPut (frame : Frame)
  | cfgPut (sel : BitVec 4)
  | talkReq
  | listenReq
  | uartStart
  | uartStop
  | hTake
  | hWput (data : Byte)
deriving DecidableEq, Repr

/-- The strobe a call asserts: one for each call of its operation. The queries assert none. -/
def strobeOf : Call → Option Strobe
  | .uartRxReady _ | .uartTxBusy _ | .uartTxComplete _ | .hostAvail _ => none
  | .uartReceive _ => some .rxTake
  | .uartTransmit f => some (.txPut f)
  | .uartConfigure rate => (baudSel rate).map .cfgPut
  | .enterTalk => some .talkReq
  | .enterListen => some .listenReq
  | .enterOffline => none
  | .uartStart => some .uartStart
  | .uartStop => some .uartStop
  | .hostRead _ => some .hTake
  | .hostWrite b => some (.hWput b)

/-- The strobes of a trace, in call order. -/
def strobes (cs : List Call) : List Strobe := cs.filterMap strobeOf

end Sys2Proof.Machine
end

