-- ==== Sys2Proof/Tests/Slice0.lean ====
section
/-!
SUPPORT. The model's own tests. Expected results come from the spec: the words from Table R80 and Table
R88, the effects from the examples of the rules and from 95_test_vectors.md (V-ENC, V-DEC, V-SEQ and the
source's Scenarios A to F). The witnesses show, for every statement with hypotheses, a state and operands
that meet them together.
-/

open Sys2Proof Sys2Proof.Machine

namespace Sys2Proof.Tests

/-! ## Small states -/

/-- The bridge open, in `DSTATE` = `d` and with `TALK` = `talk`, the transmitter free, nothing waiting. -/
def bridge (d : DState) (talk : Bool) : State :=
  { State.reset with
    dstate := d
    talk := talk
    phase := .opened
    adapter := { State.reset.adapter with
      rate := 9600, enabled := true, direction := directionOf talk } }

def withHost (bs : List Byte) (s : State) : State :=
  setHostPort { inbound := bs, outbound := [] } s

def withFrame (v : Frame) (s : State) : State :=
  setAdapter { s.adapter with rxWaiting := some v } s

def withBusy (s : State) : State := setAdapter { s.adapter with txBusy := true } s

def withLine (line : TxLine) (s : State) : State := setAdapter { s.adapter with line := line } s

/-- The bridge with the bytes of a sequence first in the Host Port, and one byte more. -/
def loaded (i : Instr) (d : DState) (talk : Bool) : State :=
  withHost (encode i ++ [0x41#8]) (bridge d talk)

def ticking (s : State) : State := setPending [quietTick] s

def nextOf : Host.Outcome State Fault Refusal → Option State
  | .next t => some t
  | .fault _ => none
  | .refused _ => none

def refusalOf : Host.Outcome State Fault Refusal → Option Refusal
  | .next _ => none
  | .fault _ => none
  | .refused r => some r

/-- What is observed of an outcome (R10): the action trace, `DSTATE` and `TALK`. -/
def observed (o : Host.Outcome State Fault Refusal) : Option (List Call × DState × Bool) :=
  (nextOf o).map fun t => (actionTrace t.trace, t.dstate, t.talk)

/-! ## Well-formedness: an ill-formed term for each check -/

theorem test_wf_data_is_not_the_escape_code : (Instr.data 0xFF#8).wf = false := by decide
theorem test_wf_illegal_is_not_HIGH : (Instr.illegal 0x01#8).wf = false := by decide
theorem test_wf_illegal_is_not_ESC : (Instr.illegal 0xFF#8).wf = false := by decide
theorem test_wf_illegal_is_no_baud_code :
    (Instr.illegal 0x10#8).wf = false ∧ (Instr.illegal 0x19#8).wf = false := by decide
theorem test_wf_illegal_edges :
    (Instr.illegal 0x00#8).wf = true ∧ (Instr.illegal 0x02#8).wf = true ∧
    (Instr.illegal 0x0F#8).wf = true ∧ (Instr.illegal 0x1A#8).wf = true ∧
    (Instr.illegal 0xFE#8).wf = true := by decide
theorem test_wf_encLit_is_not_the_escape_code : (Instr.encLit 0xFF#8).wf = false := by decide
theorem test_wf_open_rate_is_in_the_table :
    (Instr.openBridge 1234).wf = false ∧ (Instr.openBridge 115200).wf = true := by decide

/-! ## Decoding: a word for every row, byte 0 first (Table R80, Table R88, R95) -/

theorem test_decode_data : decodeTableWord 8 0b01000001 = some (.data 0x41#8) := by decide
theorem test_decode_dataff : decodeTableWord 16 0b11111111_11111111 = some .dataff := by decide
theorem test_decode_high :
    decodeTableWord 24 0b11111111_00000001_10101010 = some (.high 0xAA#8) := by decide
theorem test_decode_baud0 : decodeTableWord 16 0b11111111_00010000 = some .baud0 := by decide
theorem test_decode_baud1 : decodeTableWord 16 0b11111111_00010001 = some .baud1 := by decide
theorem test_decode_baud2 : decodeTableWord 16 0b11111111_00010010 = some .baud2 := by decide
theorem test_decode_baud3 : decodeTableWord 16 0b11111111_00010011 = some .baud3 := by decide
theorem test_decode_baud4 : decodeTableWord 16 0b11111111_00010100 = some .baud4 := by decide
theorem test_decode_baud5 : decodeTableWord 16 0b11111111_00010101 = some .baud5 := by decide
theorem test_decode_baud6 : decodeTableWord 16 0b11111111_00010110 = some .baud6 := by decide
theorem test_decode_baud7 : decodeTableWord 16 0b11111111_00010111 = some .baud7 := by decide
theorem test_decode_baud8 : decodeTableWord 16 0b11111111_00011000 = some .baud8 := by decide
theorem test_decode_baud9 : decodeTableWord 16 0b11111111_00011001 = some .baud9 := by decide
theorem test_decode_illegal :
    decodeTableWord 16 0b11111111_00011010 = some (.illegal 0x1A#8) := by decide
/-- No row covers a cut-short tail, nor a sequence with a byte after it (R84, R85, R95). -/
theorem test_decode_of_no_row :
    decodeTableWord 8 0xFF = none ∧ decodeTableWord 16 0xFF01 = none ∧
    decodeTableWord 16 0x4142 = none ∧ decodeTableWord 0 0 = none := by decide

/-- Nor a word that is no byte string: 12 bits, or a number of more than 8 bits (log entry 1). -/
theorem test_decode_of_no_byte_string :
    decodeTableWord 12 0xABC = none ∧ decodeTableWord 8 0x141 = none := by decide
theorem test_decode_encLit :
    decode .deviceToHost [0b01000001#8] = .ok (.encLit 0x41#8, []) := by decide
theorem test_decode_encEsc :
    decode .deviceToHost [0b11111111#8, 0b11111111#8] = .ok (.encEsc, []) := by decide
theorem test_decode_encHigh :
    decode .deviceToHost [0b11111111#8, 0b00000001#8, 0b11111111#8] = .ok (.encHigh 0xFF#8, []) := by
  decide

/-- The cut-short tails, the empty stream and a control byte the device never sends, by name. -/
theorem test_decode_rejects_by_name :
    decode .hostToDevice [] = .error .emptyStream ∧
    decode .hostToDevice [0xFF#8] = .error .cutShortAfterEsc ∧
    decode .hostToDevice [0xFF#8, 0x01#8] = .error .cutShortAfterHigh ∧
    decode .deviceToHost [0xFF#8, 0x10#8] = .error (.notEmittedByDevice 0x10#8) := by decide

/-- `FF FF FF` is one `DATAFF` and a cut-short tail (R152). -/
theorem test_stream_of_escapes :
    decodeStream .hostToDevice 3 [0xFF#8, 0xFF#8, 0xFF#8] = ([.dataff], [0xFF#8]) := by decide

/-- The pseudo-instructions (Table R94). -/
theorem test_pseudo_instructions :
    sendSequence 0x1FF#9 = .high 0xFF#8 ∧ sendSequence 0x0FF#9 = .dataff ∧
    sendSequence 0x041#9 = .data 0x41#8 ∧ baudRateSequence 9600 = some .baud5 ∧
    baudRateSequence 9601 = none := by decide

/-! ## The encoder: V-ENC-10, -11, -15, -17 -/

theorem test_encoder_vectors :
    encodeFrame 0x0FE#9 = [0xFE#8] ∧ encodeFrame 0x0FF#9 = [0xFF#8, 0xFF#8] ∧
    encodeFrame 0x1AA#9 = [0xFF#8, 0x01#8, 0xAA#8] ∧
    encodeFrame 0x1FF#9 = [0xFF#8, 0x01#8, 0xFF#8] := by decide

theorem test_exec_encLit :
    observed (exec (.encLit 0xAA#8) (bridge .idle false)) =
      some ([.hostWrite 0xAA#8], .idle, false) := by decide
theorem test_exec_encEsc :
    observed (exec .encEsc (bridge .idle false)) =
      some ([.hostWrite 0xFF#8, .hostWrite 0xFF#8], .idle, false) := by decide
theorem test_exec_encHigh :
    observed (exec (.encHigh 0xAA#8) (bridge .escape true)) =
      some ([.hostWrite 0xFF#8, .hostWrite 0x01#8, .hostWrite 0xAA#8], .escape, true) := by decide

/-! ## The decoder: V-DEC, one vector per row of Table R150 and the edges of each class -/

theorem test_decoder_idle :
    decoderStep .idle 0x00#8 = (.idle, some (.transmit 0x000#9)) ∧
    decoderStep .idle 0xFE#8 = (.idle, some (.transmit 0x0FE#9)) ∧
    decoderStep .idle 0xFF#8 = (.escape, none) := by decide
theorem test_decoder_escape :
    decoderStep .escape 0x00#8 = (.idle, none) ∧ decoderStep .escape 0x01#8 = (.high, none) ∧
    decoderStep .escape 0x0F#8 = (.idle, none) ∧
    decoderStep .escape 0x10#8 = (.idle, some (.configure 300)) ∧
    decoderStep .escape 0x19#8 = (.idle, some (.configure 115200)) ∧
    decoderStep .escape 0x1A#8 = (.idle, none) ∧ decoderStep .escape 0x90#8 = (.idle, none) ∧
    decoderStep .escape 0xFF#8 = (.idle, some (.transmit 0x0FF#9)) := by decide
theorem test_decoder_high :
    decoderStep .high 0x01#8 = (.idle, some (.transmit 0x101#9)) ∧
    decoderStep .high 0xFF#8 = (.idle, some (.transmit 0x1FF#9)) := by decide
theorem test_decoder_invalid : decoderStep .invalid 0xFF#8 = (.idle, none) := by decide

/-! ## The sequences: V-SEQ -/

theorem test_exec_data :
    observed (exec (.data 0x41#8) (loaded (.data 0x41#8) .idle false)) =
      some ([.hostRead 0x41#8, .enterTalk, .uartTransmit 0x041#9], .idle, true) := by decide
theorem test_exec_dataff :
    observed (exec .dataff (loaded .dataff .idle false)) =
      some ([.hostRead 0xFF#8, .enterTalk, .hostRead 0xFF#8, .uartTransmit 0x0FF#9], .idle, true) := by
  decide
theorem test_exec_high :
    observed (exec (.high 0xAA#8) (loaded (.high 0xAA#8) .idle false)) =
      some ([.hostRead 0xFF#8, .enterTalk, .hostRead 0x01#8, .hostRead 0xAA#8,
        .uartTransmit 0x1AA#9], .idle, true) := by decide
theorem test_exec_illegal :
    observed (exec (.illegal 0xAA#8) (loaded (.illegal 0xAA#8) .idle true)) =
      some ([.hostRead 0xFF#8, .hostRead 0xAA#8], .idle, true) := by decide

/-- The rate each baud-select sequence configures, in the order of the table. -/
theorem test_exec_baud_rates :
    [Instr.baud0, .baud1, .baud2, .baud3, .baud4, .baud5, .baud6, .baud7, .baud8, .baud9].map
        (fun i => (nextOf (exec i (loaded i .idle false))).map fun t => t.adapter.rate) =
      [some 300, some 600, some 1200, some 2400, some 4800, some 9600, some 19200, some 38400,
        some 57600, some 115200] := by decide

/-- Scenario E: `FF 15` is one `configure(9600)` and no transmit. -/
theorem test_exec_baud5 :
    observed (exec .baud5 (loaded .baud5 .idle true)) =
      some ([.hostRead 0xFF#8, .hostRead 0x15#8, .uartConfigure 9600], .idle, true) := by decide

/-- A configure while a frame is still draining leaves the adapter upset (93 U4). -/
theorem test_baud_change_while_draining :
    (nextOf (exec .baud0 (withLine (.draining 0x041#9) (loaded .baud0 .idle true)))).map
        (fun t => (t.adapter.upset, t.dstate, t.talk)) = some (true, .idle, true) := by decide

/-- So does one while a frame is in reception (R241), and none while neither is the case. -/
theorem test_baud_change_during_reception :
    (nextOf (exec .baud0 (envMove .frameBegins (loaded .baud0 .idle true)))).map
        (fun t => t.adapter.upset) = some true ∧
    (nextOf (exec .baud0 (loaded .baud0 .idle true))).map (fun t => t.adapter.upset) = some false := by
  decide

/-- Nothing is read from an empty Host Port (93 U2), and another byte is another sequence. -/
theorem test_exec_sequence_reads_the_host_port :
    refusalOf (exec .dataff (bridge .idle false)) = some .readNotAvailable ∧
    refusalOf (exec .dataff (withHost [0xFF#8] (bridge .idle false))) = some .readNotAvailable ∧
    refusalOf (exec .dataff (withHost [0xFF#8, 0x10#8] (bridge .idle false))) =
      some .sequenceNotInPort := by decide

/-! ## The branches: the examples of R111 to R115 -/

theorem test_exec_tRx :
    observed (exec .tRx (withFrame 0x1AA#9 (bridge .escape true))) =
      some ([.uartReceive 0x1AA#9, .hostWrite 0xFF#8, .hostWrite 0x01#8, .hostWrite 0xAA#8],
        .escape, true) := by decide
theorem test_exec_tBusy :
    nextOf (exec .tBusy (withBusy (bridge .idle true))) = some (withBusy (bridge .idle true)) := by
  decide
theorem test_exec_tHost :
    observed (exec .tHost (withHost [0x41#8] (bridge .idle false))) =
      some ([.hostRead 0x41#8, .enterTalk, .uartTransmit 0x041#9], .idle, true) := by decide
theorem test_exec_tRel :
    observed (exec .tRel (bridge .idle true)) = some ([.enterListen], .idle, false) := by decide
theorem test_exec_tRel_keeps_decoder :
    observed (exec .tRel (bridge .high true)) = some ([.enterListen], .high, false) := by decide
theorem test_exec_tIdle :
    nextOf (exec .tIdle (bridge .high true)) = some (bridge .high true) := by decide

/-! ## The lifecycle: the examples of R184 and R185 -/

theorem test_exec_open :
    observed (exec (.openBridge 9600) State.reset) =
      some ([.uartConfigure 9600, .uartStart, .enterListen], .idle, false) := by decide
theorem test_exec_close :
    observed (exec .closeBridge (bridge .escape true)) =
      some ([.uartStop], .escape, true) := by decide

/-! ## The step -/

/-- Branch 1 wins over a waiting host byte (R117, R120). -/
theorem test_tick_prefers_received_frame :
    (nextOf (step (ticking (withFrame 0x0AA#9 (withHost [0x41#8] (bridge .idle false)))))).map
        (fun t => (t.trace, t.hostPort.inbound)) =
      some ([.uartRxReady true, .uartReceive 0x0AA#9, .hostWrite 0xAA#8], [0x41#8]) := by decide

/-- A host byte that arrives in the same tick, after the busy query, comes before the release (R117). -/
theorem test_tick_same_tick_arrival_wins :
    (nextOf (step (setPending [.tick ⟨[], [], [.hostSends 0xFF#8], []⟩]
        (withLine (.left 0x041#9) (bridge .idle true))))).map (fun t => (t.dstate, t.talk)) =
      some (.escape, true) := by decide

/-- A placed word is run by the very next step from reset, reading only its last byte. -/
theorem test_placed_word_runs :
    (nextOf (step (State.reset.withFetchWord 24 0b11111111_00000001_10101010))).map
        (fun t => (actionTrace t.trace, t.dstate)) =
      some ([.hostRead 0xAA#8, .enterTalk, .uartTransmit 0x1AA#9], .idle) := by decide

/-- With nothing called the machine holds (R30, R233). -/
theorem test_step_holds : nextOf (step State.reset) = some State.reset := by decide

/-- Reset, `OPEN(9600)` and a tick with a host byte: what runs before a program's first instruction. -/
theorem test_run_from_reset :
    observed (Host.Core.run Sys2Proof.core 2 (setPending
      [.openBridge 9600 [] ⟨none, false, false, true⟩,
        .tick ⟨[.hostSends 0x41#8], [], [], []⟩] State.reset)) =
      some ([.uartConfigure 9600, .uartStart, .enterListen, .hostRead 0x41#8, .enterTalk,
        .uartTransmit 0x041#9], .idle, true) := by decide

/-- The strobes of a trace and the observed registers (Table R74). -/
theorem test_ports :
    strobes [.uartRxReady false, .hostRead 0x15#8, .enterTalk, .uartConfigure 9600] =
      [.hTake, .talkReq, .cfgPut 0x5#4] ∧
    talkPort (bridge .high true) = 1#1 ∧ dstatePort (bridge .high true) = 0b10#2 ∧
    openOfSel [] ⟨none, false, false, true⟩ 9 =
      some (.openBridge 115200 [] ⟨none, false, false, true⟩) ∧
    openOfSel [] ⟨none, false, false, true⟩ 10 = none := by decide

/-- The command ports (Table R74): `rst`, `op_open` with `open_sel`, `op_close` and `op_tick`, one at a
time, each called by its port and shown on it. -/
theorem test_command_ports :
    (∀ op ∈ [Op.reset, .openBridge 9600 [] ⟨none, false, false, true⟩, quietTick, .closeBridge],
      opOfCommand (commandOf op) [] ⟨none, false, false, true⟩ ⟨[], [], [], []⟩ = some op) ∧
    commandOf (.openBridge 9600 [] ⟨none, false, false, true⟩) =
      ⟨0#1, 1#1, some 0x5#4, 0#1, 0#1⟩ ∧
    opOfCommand ⟨0#1, 0#1, none, 1#1, 1#1⟩ [] ⟨none, false, false, true⟩ ⟨[], [], [], []⟩ = none ∧
    (inPorts (ticking (withHost [0x41#8] (bridge .idle false)))).command.opTick = 1#1 ∧
    (inPorts State.reset).command = noCommand := by decide

/-- `stop()` disables the peripheral; whether it goes offline has no value (log entry 31). -/
theorem test_close_disables :
    (nextOf (exec .closeBridge (bridge .idle true))).map (fun t => t.adapter.enabled) = some false := by
  decide

/-! ## Witnesses: wire format -/

theorem witness_DecodeGivesBackEncodedInstruction :
    (Instr.illegal 0xFE#8).wf = true ∧
      (Instr.illegal 0xFE#8).direction = some .hostToDevice ∧
      (Instr.encHigh 0xFF#8).wf = true ∧
      (Instr.encHigh 0xFF#8).direction = some .deviceToHost := by decide

theorem witness_EncodeGivesBackDecodedBytes :
    decode .hostToDevice [0xFF#8, 0x10#8, 0x41#8] = .ok (.baud0, [0x41#8]) := by decide

theorem witness_TableRowDecodesToItsInstruction :
    ∃ row ∈ encodedRows, row.mnemonic = "ILLEGAL" ∧ row.covers [0xFF#8, 0x1A#8] = true := by decide

theorem witness_DecodedInstructionHasOneTableRow :
    decode .deviceToHost [0xFF#8, 0x01#8, 0xFF#8, 0x00#8] = .ok (.encHigh 0xFF#8, [0x00#8]) := by
  decide

theorem witness_FrameEncodingIsBijective :
    (Instr.data 0xFE#8).wf = true ∧ (Instr.data 0xFE#8).frame = some 0x0FE#9 ∧
    (Instr.data 0xFE#8).direction = some .hostToDevice ∧
    (Instr.encHigh 0xFF#8).wf = true ∧ (Instr.encHigh 0xFF#8).frame = some 0x1FF#9 ∧
    (Instr.encHigh 0xFF#8).direction = some .deviceToHost := by decide

/-- Each clause at its boundary values. -/
theorem witness_BaudSelectOperand :
    (0x10 ≤ (0x10#8).toNat ∧ (0x10#8).toNat ≤ 0x19) ∧
    (0x10 ≤ (0x19#8).toNat ∧ (0x19#8).toNat ≤ 0x19) ∧
    ¬(0x10 ≤ (0x0F#8).toNat ∧ (0x0F#8).toNat ≤ 0x19) ∧
    ¬(0x10 ≤ (0x1A#8).toNat ∧ (0x1A#8).toNat ≤ 0x19) ∧
    (0x1A ≤ (0x1F#8).toNat ∧ (0x1F#8).toNat ≤ 0x1F) := by decide

/-- Each clause at its boundary values. -/
theorem witness_EncodeTestsSideBitFirst :
    sideBit 0x100#9 = true ∧ sideBit 0x1FF#9 = true ∧
    (sideBit 0x0FF#9 = false ∧ dataBits 0x0FF#9 = 0xFF#8) ∧
    (sideBit 0x0FE#9 = false ∧ dataBits 0x0FE#9 ≠ 0xFF#8) ∧
    (sideBit 0x000#9 = false ∧ dataBits 0x000#9 ≠ 0xFF#8) := by decide

theorem witness_ProductionsWriteTheirBytes :
    (bridge .high true).phase = .opened ∧ (0xFE#8 : Byte) ≠ 0xFF#8 := by decide

theorem witness_ReceiveBranch :
    (withFrame 0x1AA#9 (bridge .escape true)).phase = .opened ∧
    (withFrame 0x1AA#9 (bridge .escape true)).adapter.rxWaiting = some 0x1AA#9 := by decide

/-! ## Witnesses: the decoder -/

/-- A tick that reads the given byte in the given position. -/
theorem witness_HostBranch_hypotheses :
    ∀ d ∈ [DState.idle, .escape, .high, .invalid],
    ∀ b ∈ [0x00#8, 0x01#8, 0x02#8, 0x0F#8, 0x10#8, 0x19#8, 0x1A#8, 0xFE#8, 0xFF#8],
      (withHost [b, 0x41#8] (bridge d false)).phase = .opened ∧
      (withHost [b, 0x41#8] (bridge d false)).dstate = d ∧
      (withHost [b, 0x41#8] (bridge d false)).adapter.txBusy = false ∧
      (withHost [b, 0x41#8] (bridge d false)).hostPort.inbound = b :: [0x41#8] := by decide

/-- The four clauses of a byte in `ESCAPE`, each at its boundary values. -/
theorem witness_HostBranchInEscape_clauses :
    (0x10 ≤ (0x10#8).toNat ∧ (0x10#8).toNat ≤ 0x19 ∧
      Config.baudTable[(0x10#8).toNat - 0x10]? = some 300) ∧
    (0x10 ≤ (0x19#8).toNat ∧ (0x19#8).toNat ≤ 0x19 ∧
      Config.baudTable[(0x19#8).toNat - 0x10]? = some 115200) ∧
    (∀ b ∈ [0x00#8, 0x02#8, 0x0F#8, 0x1A#8, 0xFE#8],
      b ≠ 0x01#8 ∧ b ≠ 0xFF#8 ∧ ¬(0x10 ≤ b.toNat ∧ b.toNat ≤ 0x19)) := by decide

theorem witness_DecoderResynchronises : (0x41#8 : Byte) ≠ 0x01#8 := by decide

/-! ## Witnesses: the sequences -/

/-- Every sequence of O23 to O27, at the edges of its operand, with its bytes and one more in the Host Port. -/
theorem witness_Sequences_from_idle :
    ∀ i ∈ [Instr.data 0x00#8, .data 0xFE#8, .dataff, .high 0x00#8, .high 0xFF#8, .baud0, .baud1, .baud2,
        .baud3, .baud4, .baud5, .baud6, .baud7, .baud8, .baud9, .illegal 0x00#8, .illegal 0xFE#8],
      i.wf = true ∧ (loaded i .idle false).phase = .opened ∧ (loaded i .idle false).dstate = .idle ∧
      (loaded i .idle false).adapter.txBusy = false ∧
      (loaded i .idle false).hostPort.inbound = encode i ++ [0x41#8] := by decide

theorem witness_BaudSelectSetsRate :
    (Instr.baud9, 0x19#8, 115200) ∈ [(Instr.baud0, 0x10#8, 300), (.baud9, 0x19#8, 115200)] := by
  decide

/-- In step from `IDLE` and `ESCAPE`, out of step from `HIGH`. -/
theorem witness_SequenceIsItsHostTicks :
    ∀ d ∈ [DState.idle, .escape, .high],
      Instr.dataff.direction = some .hostToDevice ∧
      (withHost (sequenceRest .dataff d ++ [0x41#8]) (bridge d false)).phase = .opened ∧
      (withHost (sequenceRest .dataff d ++ [0x41#8]) (bridge d false)).hostPort.inbound =
        sequenceRest .dataff (withHost (sequenceRest .dataff d ++ [0x41#8]) (bridge d false)).dstate
          ++ [0x41#8] := by decide

/-- The three bytes of `HIGH AA` in the Host Port and three quiet ticks called. -/
def threeTicks : State :=
  setPending [quietTick, quietTick, quietTick]
    (withHost [0xFF#8, 0x01#8, 0xAA#8] (bridge .idle false))

theorem witness_QuietTicksRunSequence :
    (Instr.high 0xAA#8).wf = true ∧ (Instr.high 0xAA#8).direction = some .hostToDevice ∧
    threeTicks.phase = .opened ∧ threeTicks.dstate = .idle ∧
    threeTicks.adapter.rxWaiting = none ∧ threeTicks.adapter.txBusy = false ∧
    threeTicks.pending = List.replicate (encode (.high 0xAA#8)).length quietTick ++ [] ∧
    threeTicks.hostPort.inbound = encode (.high 0xAA#8) ++ [] := by decide

/-! ## Witnesses: branches, lifecycle, reset -/

theorem witness_Branches :
    (bridge .idle true).phase = .opened ∧ (bridge .idle true).talk = true ∧
    (bridge .high false).phase = .opened ∧ (bridge .high false).talk = false := by decide

theorem witness_OpenConfiguresStartsAndListens :
    State.reset.phase = .constructed ∧ (Instr.openBridge 300).wf = true ∧
    (Instr.openBridge 115200).wf = true := by decide

/-- Each clause: a tick before `OPEN`, a second `OPEN`, a `CLOSE` before `OPEN`, an odd rate. -/
theorem witness_OutsideLifecycleIsRefused :
    State.reset.phase ≠ .opened ∧ Instr.tIdle ≠ .closeBridge ∧ (bridge .idle false).phase ≠ .constructed ∧
    State.reset.phase = .constructed ∧ (Instr.openBridge 301).wf = false := by decide

/-- Each clause: no frame and no byte; another byte than the one left to read; a port that runs short or goes
wrong after a right first byte, from `IDLE` and in mid-sequence; a byte that would transmit, and the three sequences that would, while the register is not ready. -/
theorem witness_ContractBreakingCallsAreRefused :
    ((bridge .idle false).phase = .opened ∧ (bridge .idle false).adapter.rxWaiting = none ∧
      (bridge .idle false).hostPort.inbound = []) ∧
    ((withHost [0x10#8] (bridge .escape false)).phase = .opened ∧
      sequenceRest .dataff (withHost [0x10#8] (bridge .escape false)).dstate = 0xFF#8 :: [] ∧
      (withHost [0x10#8] (bridge .escape false)).hostPort.inbound = 0x10#8 :: [] ∧
      (0x10#8 : Byte) ≠ 0xFF#8) ∧
    (∀ more ∈ [[], [0x10#8]],
      (withHost ([0xFF#8] ++ more) (bridge .idle false)).phase = .opened ∧
      sequenceRest .dataff (withHost ([0xFF#8] ++ more) (bridge .idle false)).dstate =
        [0xFF#8] ++ 0xFF#8 :: [] ∧
      (withHost ([0x01#8] ++ more) (bridge .escape false)).phase = .opened ∧
      sequenceRest (.high 0xAA#8) (withHost ([0x01#8] ++ more) (bridge .escape false)).dstate =
        [0x01#8] ++ 0xAA#8 :: []) ∧
    ((withBusy (withHost [0x41#8] (bridge .idle false))).hostPort.inbound = 0x41#8 :: [] ∧
      (withBusy (withHost [0x41#8] (bridge .idle false))).adapter.txBusy = true ∧
      (decoderStep (withBusy (withHost [0x41#8] (bridge .idle false))).dstate 0x41#8).2 =
        some (.transmit 0x041#9)) ∧
    (∀ i ∈ [Instr.data 0x41#8, .dataff, .high 0xAA#8],
      (withBusy (loaded i .idle false)).phase = .opened ∧
      (withBusy (loaded i .idle false)).dstate = .idle ∧
      (withBusy (loaded i .idle false)).adapter.txBusy = true ∧ i.wf = true ∧
      i.direction = some .hostToDevice ∧ i.frame.isSome = true ∧
      (withBusy (loaded i .idle false)).hostPort.inbound = encode i ++ [0x41#8]) := by decide

theorem witness_ResetStepTouchesRegistersOnly :
    (setPending [.reset, quietTick] (bridge .high true)).pending = .reset :: [quietTick] := by decide

/-! ## Witnesses: the step -/

/-- A tick, an `OPEN`, a `CLOSE` and nothing, each as the operation called next. -/
theorem witness_StepRunsSelectedInstruction :
    (setPending [quietTick] State.reset).pending = quietTick :: [] ∧
    (setPending [.openBridge 300 [.hostSends 0x41#8] ⟨none, true, true, false⟩] State.reset).pending =
      .openBridge 300 [.hostSends 0x41#8] ⟨none, true, true, false⟩ :: [] ∧
    (setPending [.closeBridge] State.reset).pending = .closeBridge :: [] ∧
    State.reset.pending = [] := by decide

/-- `HIGH AA` with its first two bytes read. -/
theorem witness_StepRunsDecodedSequence :
    (ticking (withHost [0xAA#8, 0x41#8] (bridge .high true))).pending = quietTick :: [] ∧
    (Instr.high 0xAA#8).direction = some .hostToDevice ∧
    (poll ⟨[], [], [], []⟩
      (setPending [] (ticking (withHost [0xAA#8, 0x41#8] (bridge .high true))))).1 = .tHost ∧
    sequenceRest (.high 0xAA#8) (ticking (withHost [0xAA#8, 0x41#8] (bridge .high true))).dstate =
      [0xAA#8] ∧
    (poll ⟨[], [], [], []⟩
      (setPending [] (ticking (withHost [0xAA#8, 0x41#8] (bridge .high true))))).2.hostPort.inbound =
      0xAA#8 :: [0x41#8] := by decide

theorem witness_PlacedWordRunsNext : decodeTableWord 16 0xFF19 = some .baud9 := by decide

/-- Moves between the queries that make each answer another than it was when the tick began. -/
theorem witness_BranchSelectionTable :
    (poll ⟨[.frameArrives 0x041#9], [], [], []⟩ (bridge .idle false)).1 = .tRx ∧
    (poll ⟨[], [.holding true], [], []⟩ (bridge .idle false)).1 = .tBusy ∧
    (poll ⟨[], [], [.hostSends 0x41#8], []⟩ (bridge .idle false)).1 = .tHost ∧
    (poll ⟨[], [], [], [.lineAnswer true]⟩ (bridge .idle false)).1 = .tRel ∧
    (poll ⟨[], [], [], []⟩ (bridge .idle false)).1 = .tIdle := by decide

/-- An opened bridge with a tick called, whatever `DSTATE`, `TALK` and the transmitter are. -/
theorem witness_EveryTickCompletes :
    ∀ d ∈ [DState.idle, .invalid], ∀ talk : Bool,
      (ticking (withBusy (bridge d talk))).phase = .opened ∧
      (ticking (withBusy (bridge d talk))).pending = quietTick :: [] := by decide

/-- One completed tick of each branch, with the calls it adds to the trace. -/
theorem witness_Tick_of_each_branch :
    (∃ t, (ticking (withFrame 0x0AA#9 (bridge .idle true))).pending = quietTick :: [] ∧
      step (ticking (withFrame 0x0AA#9 (bridge .idle true))) = .next t ∧
      t.trace = (ticking (withFrame 0x0AA#9 (bridge .idle true))).trace ++
        [.uartRxReady true, .uartReceive 0x0AA#9, .hostWrite 0xAA#8]) ∧
    (∃ t, step (ticking (withBusy (bridge .idle true))) = .next t ∧
      t.trace = (ticking (withBusy (bridge .idle true))).trace ++
        [.uartRxReady false, .uartTxBusy true]) ∧
    (∃ t, step (ticking (withLine (.draining 0x041#9) (bridge .idle true))) = .next t ∧
      t.trace = (ticking (withLine (.draining 0x041#9) (bridge .idle true))).trace ++
        [.uartRxReady false, .uartTxBusy false, .hostAvail 0, .uartTxComplete false]) :=
  ⟨⟨_, rfl, rfl, rfl⟩, ⟨_, rfl, rfl⟩, ⟨_, rfl, rfl⟩⟩

/-- A transmit in a tick (and `TALK` and `DSTATE` with it), from `HIGH` with `TALK` clear. -/
theorem witness_TransmitOnlyWhenFreeAndTalking :
    ∃ t before, (ticking (withHost [0xAA#8] (bridge .high false))).pending = quietTick :: [] ∧
      step (ticking (withHost [0xAA#8] (bridge .high false))) = .next t ∧
      t.trace = (ticking (withHost [0xAA#8] (bridge .high false))).trace ++
        (before ++ .uartTransmit 0x1AA#9 :: []) ∧
      t.dstate ≠ (ticking (withHost [0xAA#8] (bridge .high false))).dstate ∧
      t.talk ≠ (ticking (withHost [0xAA#8] (bridge .high false))).talk :=
  ⟨_, [.uartRxReady false, .uartTxBusy false, .hostAvail 1, .hostRead 0xAA#8, .enterTalk],
    rfl, rfl, rfl, by decide, by decide⟩

/-- A release in a tick during which the frame leaves. -/
def releasing : State :=
  setPending [.tick ⟨[.lineIdle], [], [], []⟩] (withLine (.draining 0x041#9) (bridge .idle true))

theorem witness_ReleaseOnlyAfterFrameHasLeft :
    ∃ t cs, releasing.pending = .tick ⟨[.lineIdle], [], [], []⟩ :: [] ∧
      step releasing = .next t ∧ t.trace = releasing.trace ++ cs ∧
      Call.enterListen ∈ cs ∧ releasing.adapter.upset = false ∧
      releasing.adapter.line = .draining 0x041#9 ∧ t.talk ≠ releasing.talk :=
  ⟨_, [.uartRxReady false, .uartTxBusy false, .hostAvail 0, .uartTxComplete true, .enterListen],
    rfl, rfl, rfl, by decide, rfl, rfl, by decide⟩

/-- Both ways of being idle. -/
theorem witness_IdleTicksChangeNothing :
    (setPending [quietTick, quietTick] (withBusy (bridge .escape true))).phase = .opened ∧
    (setPending [quietTick, quietTick] (withBusy (bridge .escape true))).pending =
      List.replicate 2 quietTick ++ [] ∧
    (withBusy (bridge .escape true)).adapter.rxWaiting = none ∧
    (withBusy (bridge .escape true)).adapter.txBusy = true ∧
    (bridge .escape false).hostPort.inbound = [] ∧
    (lineComplete (withLine (.left 0x041#9) (bridge .escape false)).adapter.line = true →
      (bridge .escape false).talk = false) := by decide

/-- Two states with other rate, enable, direction and outbound bytes, and a completed step. -/
theorem witness_SameAnswersSameCalls :
    SameAnswers (ticking (bridge .idle true))
        (setAdapter { (bridge .idle true).adapter with rate := 300, direction := .offline }
          (setHostPort { inbound := [], outbound := [0x41#8] } (ticking (bridge .idle true)))) ∧
      ∃ t, step (ticking (bridge .idle true)) = .next t :=
  ⟨⟨rfl, rfl, rfl, rfl, rfl, rfl, rfl, rfl, rfl, rfl⟩, _, rfl⟩

/-! ## Witnesses: the environment -/

theorem witness_WaitingFrameIsNotWithdrawn :
    (withFrame 0x0AA#9 (bridge .idle false)).adapter.upset = false ∧
    (withFrame 0x0AA#9 (bridge .idle false)).adapter.rxWaiting = some 0x0AA#9 ∧
    (bridge .idle false).adapter.rxWaiting = none := by decide

theorem witness_DrainingFrameIsNotComplete :
    (withLine (.draining 0x041#9) (bridge .idle true)).adapter.upset = false ∧
    (withLine (.draining 0x041#9) (bridge .idle true)).adapter.line = .draining 0x041#9 ∧
    EnvMove.lineIdle ∉ [EnvMove.lineAnswer true, .holding false] := by decide

theorem witness_CompleteIsFreeBeforeFirstTransmit :
    (bridge .idle true).phase = .opened ∧ (bridge .idle true).adapter.rxWaiting = none ∧
    (bridge .idle true).adapter.txBusy = false ∧ (bridge .idle true).hostPort.inbound = [] ∧
    (bridge .idle true).adapter.line = .unreferenced false := by decide

/-! ## Witnesses: the invariants -/

/-- A bridge in the middle of a burst: opened at 9600, `41` sent, `FF` read, a tick called. -/
def inBurst : State :=
  ticking { bridge .escape true with
    adapter := (withLine (.left 0x041#9) (bridge .escape true)).adapter
    trace := [.uartConfigure 9600, .uartStart, .enterListen, .hostRead 0x41#8, .enterTalk,
      .uartTransmit 0x041#9, .uartReceive 0x1AA#9, .hostWrite 0xFF#8, .hostWrite 0x01#8,
      .hostWrite 0xAA#8, .hostRead 0xFF#8] }

theorem fresh_inBurst : FreshInv inBurst := ⟨by decide, by decide, by decide⟩

theorem witness_DirectionInvariant : DirectionInv inBurst ∧ ∃ t, step inBurst = .next t :=
  ⟨⟨fresh_inBurst, by decide, by decide, by decide, by decide, by decide⟩, _, rfl⟩

theorem witness_DecoderInvariant : DecoderInv inBurst ∧ ∃ t, step inBurst = .next t :=
  ⟨⟨fresh_inBurst, by decide, by decide⟩, _, rfl⟩

theorem witness_OutboundInvariant : OutboundInv inBurst ∧ ∃ t, step inBurst = .next t :=
  ⟨by unfold OutboundInv; decide, _, rfl⟩

theorem witness_PeripheralInvariant : PeripheralInv inBurst ∧ ∃ t, step inBurst = .next t :=
  ⟨⟨by decide, by decide, by decide⟩, _, rfl⟩

theorem witness_StepNeverMakesDecoderStateInvalid :
    inBurst.dstate ≠ .invalid ∧ ∃ t, step inBurst = .next t := ⟨by decide, _, rfl⟩

theorem witness_RunKeepsSafety :
    SafeState inBurst ∧ ∃ t, Host.Core.run Sys2Proof.core 3 inBurst = .next t :=
  ⟨⟨witness_DirectionInvariant.1, witness_DecoderInvariant.1, witness_OutboundInvariant.1,
    witness_PeripheralInvariant.1, by decide⟩, _, rfl⟩

end Sys2Proof.Tests
end

/-!
SUPPORT. The proofs of the family 00_scope.md: how a byte becomes a frame value, and that a step depends
on the registers and the answers alone. For the second, two runs are compared by one relation,
`AlikeSince`; each operation of the machine keeps it.
-/

namespace Sys2Proof.Machine

/-! ## Frame values and their fields (R8, R62, R86, R93) -/

@[simp] theorem plainFrame_toNat (b : Byte) : (plainFrame b).toNat = b.toNat := by
  simp only [plainFrame, BitVec.toNat_setWidth]
  omega

/-- `{1, b}`: the two summands have no bit in common, so the OR is their sum. -/
@[simp] theorem highFrame_toNat (b : Byte) : (highFrame b).toNat = 0x100 + b.toNat := by
  have hb : (b.setWidth 9).toNat = b.toNat := plainFrame_toNat b
  rw [highFrame, BitVec.toNat_or, hb]
  exact (Nat.two_pow_add_eq_or_of_lt b.isLt 1).symm

@[simp] theorem sideBit_plainFrame (b : Byte) : sideBit (plainFrame b) = false := by
  simp [sideBit, plainFrame]

@[simp] theorem sideBit_highFrame (b : Byte) : sideBit (highFrame b) = true := by
  simp [sideBit, highFrame]

@[simp] theorem dataBits_plainFrame (b : Byte) : dataBits (plainFrame b) = b := by
  simp [dataBits, plainFrame]

@[simp] theorem dataBits_highFrame (b : Byte) : dataBits (highFrame b) = b := by
  simp [dataBits, highFrame]

/-! ## States that give the same answers -/

/-- Two adapters that nothing the block can ask tells apart: the adapter's part of `SameAnswers`. -/
structure SameAdapterAnswers (a a' : Adapter) : Prop where
  rxWaiting : a'.rxWaiting = a.rxWaiting
  txBusy : a'.txBusy = a.txBusy
  line : a'.line = a.line
  receiving : a'.receiving = a.receiving
  upset : a'.upset = a.upset

/-- Two states that give the same answers, reached with the same calls from where the traces were `p` and
`p'`. -/
structure AlikeSince (p p' : List Call) (s s' : State) : Prop extends SameAnswers s s' where
  calls : ∃ cs, s.trace = p ++ cs ∧ s'.trace = p' ++ cs

/-- Both complete, in such states, or both are refused by the same name. -/
inductive AlikeOutcomes (p p' : List Call) :
    Host.Outcome State Fault Refusal → Host.Outcome State Fault Refusal → Prop where
  | next {s s' : State} (h : AlikeSince p p' s s') : AlikeOutcomes p p' (.next s) (.next s')
  | refused (r : Refusal) : AlikeOutcomes p p' (.refused r) (.refused r)

/-- The dispatcher selects the same branch, in such states. -/
structure AlikePolls (p p' : List Call) (x x' : Instr × State) : Prop where
  branch : x'.1 = x.1
  state : AlikeSince p p' x.2 x'.2

theorem SameAnswers.adapterAnswers {s s' : State} (h : SameAnswers s s') :
    SameAdapterAnswers s.adapter s'.adapter :=
  ⟨h.rxWaiting, h.txBusy, h.line, h.receiving, h.upset⟩

theorem SameAnswers.alikeSince {s s' : State} (h : SameAnswers s s') :
    AlikeSince s.trace s'.trace s s' :=
  ⟨h, [], by simp⟩

/-- A reset sets the two registers and leaves the collaborators, so the answers stay the same (R230). -/
theorem SameAnswers.resetBlock_setPending {s s' : State} (h : SameAnswers s s') (ops : List Op) :
    SameAnswers (resetBlock (setPending ops s)) (resetBlock (setPending ops s')) :=
  { h with dstate := rfl, talk := rfl, phase := rfl, pending := rfl }

section

variable {p p' : List Call} {s s' : State} {a a' : Adapter}

/-! ## One rule per update of a field -/

theorem AlikeSince.recorded (h : AlikeSince p p' s s') (c : Call) :
    AlikeSince p p' (record c s) (record c s') := by
  obtain ⟨cs, ht, ht'⟩ := h.calls
  exact { h with calls := ⟨cs ++ [c], by simp [ht], by simp [ht']⟩ }

theorem AlikeSince.withAdapter (h : AlikeSince p p' s s') (ha : SameAdapterAnswers a a') :
    AlikeSince p p' (setAdapter a s) (setAdapter a' s') :=
  { h with
    rxWaiting := ha.rxWaiting
    txBusy := ha.txBusy
    line := ha.line
    receiving := ha.receiving
    upset := ha.upset }

theorem AlikeSince.withHostPort (h : AlikeSince p p' s s') {port port' : HostPort}
    (hp : port'.inbound = port.inbound) :
    AlikeSince p p' (setHostPort port s) (setHostPort port' s') :=
  { h with inbound := hp }

theorem AlikeSince.withDState (h : AlikeSince p p' s s') (d : DState) :
    AlikeSince p p' (setDState d s) (setDState d s') :=
  { h with dstate := rfl }

theorem AlikeSince.withTalk (h : AlikeSince p p' s s') (b : Bool) :
    AlikeSince p p' (setTalk b s) (setTalk b s') :=
  { h with talk := rfl }

theorem AlikeSince.withPhase (h : AlikeSince p p' s s') (ph : Phase) :
    AlikeSince p p' (setPhase ph s) (setPhase ph s') :=
  { h with phase := rfl }

theorem AlikeSince.withPending (h : AlikeSince p p' s s') (ops : List Op) :
    AlikeSince p p' (setPending ops s) (setPending ops s') :=
  { h with pending := rfl }

/-! ## The operations of the block -/

theorem andThen_alike {o o' : Host.Outcome State Fault Refusal}
    {k k' : State → Host.Outcome State Fault Refusal} (h : AlikeOutcomes p p' o o')
    (hk : ∀ {s s'}, AlikeSince p p' s s' → AlikeOutcomes p p' (k s) (k' s')) :
    AlikeOutcomes p p' (andThen o k) (andThen o' k') := by
  cases h with
  | next h => exact hk h
  | refused r => exact .refused r

theorem whenOpen_alike {o o' : Host.Outcome State Fault Refusal} (h : AlikeSince p p' s s')
    (ho : AlikeOutcomes p p' o o') : AlikeOutcomes p p' (whenOpen s o) (whenOpen s' o') := by
  by_cases hs : s.phase = .opened
  · rwa [whenOpen_opened hs, whenOpen_opened (h.phase.trans hs)]
  · rw [whenOpen_not_opened hs, whenOpen_not_opened (by rwa [h.phase])]
    exact .refused _

theorem hostWrites_alike (h : AlikeSince p p' s s') (bs : List Byte) :
    AlikeSince p p' (hostWrites bs s) (hostWrites bs s') := by
  induction bs generalizing s s' with
  | nil => exact h
  | cons b bs ih =>
    refine ih (.recorded (.withHostPort h ?_) _)
    exact h.inbound

theorem hostRead_alike (h : AlikeSince p p' s s') (b : Byte) :
    AlikeSince p p' (hostRead b s) (hostRead b s') :=
  .recorded (.withHostPort h (congrArg List.tail h.inbound)) _

theorem uartReceive_alike (h : AlikeSince p p' s s') (v : Frame) :
    AlikeSince p p' (uartReceive v s) (uartReceive v s') := by
  refine .recorded (.withAdapter h ?_) _
  exact { h.adapterAnswers with rxWaiting := rfl }

theorem uartTransmit_alike (h : AlikeSince p p' s s') (f : Frame) :
    AlikeOutcomes p p' (uartTransmit f s) (uartTransmit f s') := by
  unfold uartTransmit
  rw [h.txBusy]
  split
  · exact .refused _
  · refine .next (.recorded (.withAdapter h ?_) _)
    exact { h.adapterAnswers with txBusy := rfl, line := rfl }

theorem inFlight_congr (h : SameAdapterAnswers a a') : inFlight a' = inFlight a := by
  rw [inFlight, inFlight, h.line, h.receiving]

theorem uartConfigure_alike (h : AlikeSince p p' s s') (rate : Nat) :
    AlikeSince p p' (uartConfigure rate s) (uartConfigure rate s') := by
  have ha := h.adapterAnswers
  refine .recorded (.withAdapter h ?_) _
  exact { ha with upset := congrArg₂ or ha.upset (inFlight_congr ha) }

theorem enterTalk_alike (h : AlikeSince p p' s s') :
    AlikeSince p p' (enterTalk s) (enterTalk s') := by
  refine .recorded (.withAdapter h ?_) _
  exact { h.adapterAnswers with }

theorem enterListen_alike (h : AlikeSince p p' s s') :
    AlikeSince p p' (enterListen s) (enterListen s') := by
  refine .recorded (.withAdapter h ?_) _
  exact { h.adapterAnswers with }

theorem uartStart_alike (h : AlikeSince p p' s s') :
    AlikeSince p p' (uartStart s) (uartStart s') := by
  refine .recorded (.withAdapter h ?_) _
  exact { h.adapterAnswers with line := by simp only [h.line] }

theorem uartStop_alike (h : AlikeSince p p' s s') : AlikeSince p p' (uartStop s) (uartStop s') := by
  refine .recorded (.withAdapter h ?_) _
  exact { h.adapterAnswers with }

theorem seizeBus_alike (h : AlikeSince p p' s s') :
    AlikeSince p p' (seizeBus s) (seizeBus s') := by
  unfold seizeBus
  rw [h.talk]
  split
  · exact h
  · exact enterTalk_alike (h.withTalk true)

theorem releaseBus_alike (h : AlikeSince p p' s s') :
    AlikeSince p p' (releaseBus s) (releaseBus s') := by
  unfold releaseBus
  rw [h.talk]
  split
  · exact enterListen_alike (h.withTalk false)
  · exact h

/-! ## The decoder -/

theorem issue_alike (h : AlikeSince p p' s s') (c : Option UartCommand) :
    AlikeOutcomes p p' (issue c s) (issue c s') := by
  rcases c with _ | f | rate
  · exact .next h
  · exact uartTransmit_alike h f
  · exact .next (uartConfigure_alike h rate)

theorem decodeByte_alike (h : AlikeSince p p' s s') (b : Byte) :
    AlikeOutcomes p p' (decodeByte b s) (decodeByte b s') := by
  unfold decodeByte
  rw [h.dstate]
  exact andThen_alike (issue_alike h _) fun ht => .next (ht.withDState _)

theorem hostByte_alike (h : AlikeSince p p' s s') (b : Byte) :
    AlikeOutcomes p p' (hostByte b s) (hostByte b s') :=
  decodeByte_alike (seizeBus_alike (hostRead_alike h b)) b

theorem expectByte_alike (h : AlikeSince p p' s s') (b : Byte) :
    AlikeOutcomes p p' (expectByte b s) (expectByte b s') := by
  unfold expectByte
  rw [h.inbound]
  split
  · exact .refused _
  · split
    · exact hostByte_alike h b
    · exact .refused _

theorem hostBytes_alike (h : AlikeSince p p' s s') (bs : List Byte) :
    AlikeOutcomes p p' (hostBytes bs s) (hostBytes bs s') := by
  induction bs generalizing s s' with
  | nil => exact .next h
  | cons b bs ih => exact andThen_alike (expectByte_alike h b) ih

/-! ## The instructions -/

theorem runSequence_alike (h : AlikeSince p p' s s') (i : Instr) :
    AlikeOutcomes p p' (runSequence i s) (runSequence i s') := by
  unfold runSequence
  rw [h.dstate]
  exact whenOpen_alike h (hostBytes_alike h _)

theorem execTRx_alike (h : AlikeSince p p' s s') :
    AlikeOutcomes p p' (execTRx s) (execTRx s') := by
  unfold execTRx
  refine whenOpen_alike h ?_
  rw [h.rxWaiting]
  split
  · exact .refused _
  · exact .next (hostWrites_alike (uartReceive_alike h _) _)

theorem execTHost_alike (h : AlikeSince p p' s s') :
    AlikeOutcomes p p' (execTHost s) (execTHost s') := by
  unfold execTHost
  refine whenOpen_alike h ?_
  rw [h.inbound]
  split
  · exact .refused _
  · exact hostByte_alike h _

theorem execOpenBridge_alike (h : AlikeSince p p' s s') (baud : Nat) :
    AlikeOutcomes p p' (execOpenBridge baud s) (execOpenBridge baud s') := by
  unfold execOpenBridge
  rw [h.phase]
  split
  · split
    · exact .next ((enterListen_alike (uartStart_alike (uartConfigure_alike h baud))).withPhase _)
    · exact .refused _
  · exact .refused _
  · exact .refused _

theorem execCloseBridge_alike (h : AlikeSince p p' s s') :
    AlikeOutcomes p p' (execCloseBridge s) (execCloseBridge s') := by
  unfold execCloseBridge
  rw [h.phase]
  split
  · exact .next ((uartStop_alike h).withPhase _)
  · exact .refused _
  · exact .refused _

/-- Every instruction acts alike on states that give the same answers. -/
theorem exec_alike (h : AlikeSince p p' s s') (i : Instr) :
    AlikeOutcomes p p' (exec i s) (exec i s') := by
  cases i with
  | encLit | encEsc | encHigh => exact whenOpen_alike h (.next (hostWrites_alike h _))
  | tRx => exact execTRx_alike h
  | tBusy | tIdle => exact whenOpen_alike h (.next h)
  | tHost => exact execTHost_alike h
  | tRel => exact whenOpen_alike h (.next (releaseBus_alike h))
  | openBridge baud => exact execOpenBridge_alike h baud
  | closeBridge => exact execCloseBridge_alike h
  | _ =>
    rw [exec_sequence rfl, exec_sequence rfl]
    exact runSequence_alike h _

/-! ## The environment -/

/-- What a move does to the answers depends on the answers and on `upset` alone; the settings of an upset
adapter that it may change are no answers. -/
theorem adapterAfterMove_sameAnswers (h : SameAdapterAnswers a a') (m : EnvMove) :
    SameAdapterAnswers (adapterAfterMove a m) (adapterAfterMove a' m) := by
  cases m with
  | frameBegins => exact { h with receiving := rfl }
  | frameArrives v => exact { h with rxWaiting := rfl, receiving := rfl }
  | frameLost v => exact { h with receiving := rfl }
  | frameWithdrawn =>
    exact { h with rxWaiting := by simp only [adapterAfterMove, h.upset, h.rxWaiting] }
  | holding busy => exact { h with txBusy := rfl }
  | lineIdle => exact { h with line := by simp only [adapterAfterMove, h.line] }
  | lineAnswer complete => exact { h with line := by simp only [adapterAfterMove, h.line, h.upset] }
  | upsetSettings rate enabled direction overrun =>
    simp only [adapterAfterMove, h.upset]
    split
    · exact { h with upset := rfl }
    · exact h
  | hostSends b => exact h
  | hostTakes n => exact h

theorem hostPortAfterMove_inbound_congr {port port' : HostPort} (h : port'.inbound = port.inbound)
    (m : EnvMove) :
    (hostPortAfterMove port' m).inbound = (hostPortAfterMove port m).inbound := by
  cases m with
  | hostSends b => exact congrArg (· ++ [b]) h
  | _ => exact h

theorem envMoves_alike (h : AlikeSince p p' s s') (ms : List EnvMove) :
    AlikeSince p p' (envMoves ms s) (envMoves ms s') := by
  induction ms generalizing s s' with
  | nil => exact h
  | cons m ms ih =>
    exact ih ((h.withAdapter (adapterAfterMove_sameAnswers h.adapterAnswers m)).withHostPort
      (hostPortAfterMove_inbound_congr h.inbound m))

theorem settle_alike (h : AlikeSince p p' s s') (found : Option AdapterFound) :
    AlikeSince p p' (settle found s) (settle found s') := by
  cases found with
  | none => exact h
  | some found =>
    exact h.withAdapter { h.adapterAnswers with
      rxWaiting := rfl, txBusy := rfl, line := rfl, receiving := rfl }

/-! ## The dispatcher -/

/-- The same answer to a query leads to the same row of Table R116. -/
theorem AlikePolls.ite {x x' y y' : Instr × State} (c : Prop) [Decidable c]
    (hx : AlikePolls p p' x x') (hy : AlikePolls p p' y y') :
    AlikePolls p p' (if c then x else y) (if c then x' else y') := by
  split
  · exact hx
  · exact hy

theorem pollTxComplete_alike (h : AlikeSince p p' s s') (m : TickMoves) :
    AlikePolls p p' (pollTxComplete m s) (pollTxComplete m s') := by
  have he := envMoves_alike h (m.beforeTxComplete.filter allowedAfterGuard)
  simp only [pollTxComplete, envMovesAfterGuard, askTxComplete, txComplete, he.line]
  exact ⟨rfl, he.recorded _⟩

theorem pollAvail_alike (h : AlikeSince p p' s s') (m : TickMoves) :
    AlikePolls p p' (pollAvail m s) (pollAvail m s') := by
  have he := envMoves_alike h (m.beforeAvail.filter allowedAfterGuard)
  simp only [pollAvail, envMovesAfterGuard, askAvail, availCount, he.inbound]
  exact .ite _ ⟨rfl, he.recorded _⟩ (pollTxComplete_alike (he.recorded _) m)

theorem pollTxBusy_alike (h : AlikeSince p p' s s') (m : TickMoves) :
    AlikePolls p p' (pollTxBusy m s) (pollTxBusy m s') := by
  have he := envMoves_alike h m.beforeTxBusy
  simp only [pollTxBusy, askTxBusy, txBusy, he.txBusy]
  exact .ite _ ⟨rfl, he.recorded _⟩ (pollAvail_alike (he.recorded _) m)

theorem poll_alike (h : AlikeSince p p' s s') (m : TickMoves) :
    AlikePolls p p' (poll m s) (poll m s') := by
  have he := envMoves_alike h m.beforeRxReady
  simp only [poll, askRxReady, rxReady, he.rxWaiting]
  exact .ite _ ⟨rfl, he.recorded _⟩ (pollTxBusy_alike (he.recorded _) m)

/-! ## The step -/

/-- An instruction, and then what the environment is found to be. -/
theorem exec_settle_alike (h : AlikeSince p p' s s') (i : Instr) (found : Option AdapterFound) :
    AlikeOutcomes p p' (andThen (exec i s) fun u => .next (settle found u))
      (andThen (exec i s') fun u => .next (settle found u)) :=
  andThen_alike (exec_alike h i) fun hu => .next (settle_alike hu found)

/-- A step that is no reset; a reset drops the traces, and with them what was added since `p`. -/
theorem step_alike (h : AlikeSince p p' s s') (hreset : ∀ ops, s.pending ≠ .reset :: ops) :
    AlikeOutcomes p p' (step s) (step s') := by
  unfold step select
  rw [h.pending]
  rcases hp : s.pending with _ | ⟨_ | ⟨baud, before, found⟩ | m | _, ops⟩
  · exact .next h
  · exact absurd hp (hreset ops)
  · exact exec_settle_alike (envMoves_alike (h.withPending ops) before) _ _
  · obtain ⟨hbranch, hstate⟩ := poll_alike (h.withPending ops) m
    dsimp only
    rw [hbranch]
    exact exec_settle_alike hstate _ _
  · exact exec_settle_alike (h.withPending ops) _ _

theorem step_of_reset {ops : List Op} (h : s.pending = .reset :: ops) :
    step s = .next (resetBlock (setPending ops s)) := by
  simp only [step, select, h]

end

/-! ## The obligations -/

/-- Settles O11: each number and each field by its own lemma. -/
theorem frameValueAssembly : Obligations.FrameValueAssembly := by
  intro b
  exact ⟨plainFrame_toNat b, highFrame_toNat b, sideBit_plainFrame b, sideBit_highFrame b,
    dataBits_plainFrame b, dataBits_highFrame b⟩

/-- Settles O50: a reset makes the traces empty; every other step keeps `AlikeSince`, taken from the
traces the step begins with. -/
theorem sameAnswersSameCalls : Obligations.SameAnswersSameCalls := by
  intro s s' t h hstep
  by_cases hreset : ∃ ops, s.pending = .reset :: ops
  · obtain ⟨ops, hp⟩ := hreset
    obtain rfl : resetBlock (setPending ops s) = t := by
      simpa [step_of_reset hp] using hstep
    exact ⟨_, step_of_reset (h.pending.trans hp), h.resetBlock_setPending ops,
      .inr ⟨ops, hp, rfl, rfl⟩⟩
  · have halike := step_alike h.alikeSince (not_exists.mp hreset)
    rw [hstep] at halike
    generalize step s' = o' at halike ⊢
    cases halike with
    | next ht => exact ⟨_, rfl, ht.toSameAnswers, .inl ht.calls⟩

end Sys2Proof.Machine

/-!
SUPPORT. The proofs of the family 10_state.md. A tick is taken apart into its polling (`PolledFrom`) and
the branch it selects (`BranchDoes`, which keeps the branch's name, where `TickDoes` drops it). Each
invariant is kept by one lemma on what a piece of a run may add to the trace; the lemmas on the branches
say what each of them adds.
-/

namespace Sys2Proof.Machine

section

variable {s t u : State} {i : Instr} {m : TickMoves} {ops : List Op} {cs qs : List Call}

/-! ## What the calls of a branch add to each reading of a trace -/

/-- The queries read, receive, write and command nothing. -/
theorem queries_are_only_queries (h : ∀ c ∈ qs, c.isQuery = true) :
    bytesRead qs = [] ∧ bytesWritten qs = [] ∧ framesReceived qs = [] ∧ uartCommands qs = [] ∧
      directionCalls qs = [] := by
  induction qs with
  | nil => exact ⟨rfl, rfl, rfl, rfl, rfl⟩
  | cons c qs ih =>
    obtain ⟨hc, hqs⟩ := List.forall_mem_cons.mp h
    cases c <;>
      simp_all [Call.isQuery, bytesRead, bytesWritten, framesReceived, uartCommands, directionCalls]

/-- `T.RX` receives its frame and writes its encoding. -/
theorem receiveCalls_readings (v : Frame) :
    bytesRead (.uartReceive v :: (encodeFrame v).map .hostWrite) = [] ∧
    bytesWritten (.uartReceive v :: (encodeFrame v).map .hostWrite) = encodeFrame v ∧
    framesReceived (.uartReceive v :: (encodeFrame v).map .hostWrite) = [v] ∧
    uartCommands (.uartReceive v :: (encodeFrame v).map .hostWrite) = [] ∧
    directionCalls (.uartReceive v :: (encodeFrame v).map .hostWrite) = [] := by
  obtain ⟨hr, hf, hu, hd⟩ := writes_are_only_writes (encodeFrame v)
  exact ⟨hr, bytesWritten_writes _, congrArg (v :: ·) hf, hu, hd⟩

/-- `T.HOST` reads its byte, calls `EnterTalk()` where `TALK` was clear, and makes the decoder's call. -/
theorem hostCalls_readings (b : Byte) (talk : Bool) (c : Option UartCommand) :
    bytesRead (.hostRead b :: seizeCalls talk ++ commandCalls c) = [b] ∧
    bytesWritten (.hostRead b :: seizeCalls talk ++ commandCalls c) = [] ∧
    framesReceived (.hostRead b :: seizeCalls talk ++ commandCalls c) = [] ∧
    uartCommands (.hostRead b :: seizeCalls talk ++ commandCalls c) = c.toList ∧
    directionCalls (.hostRead b :: seizeCalls talk ++ commandCalls c) =
      if talk then [] else [.talk] := by
  rcases c with _ | _ | _ <;> cases talk <;> exact ⟨rfl, rfl, rfl, rfl, rfl⟩

/-- `T.REL` calls `EnterListen()` where `TALK` was set, and nothing else. -/
theorem releaseCalls_readings (talk : Bool) :
    bytesRead (releaseCalls talk) = [] ∧ bytesWritten (releaseCalls talk) = [] ∧
    framesReceived (releaseCalls talk) = [] ∧ uartCommands (releaseCalls talk) = [] ∧
    directionCalls (releaseCalls talk) = if talk then [.listen] else [] := by
  cases talk <;> exact ⟨rfl, rfl, rfl, rfl, rfl⟩

theorem offline_mem_directionCalls (cs : List Call) :
    .offline ∈ directionCalls cs ↔ .enterOffline ∈ cs := by
  constructor
  · intro h
    obtain ⟨c, hc, hd⟩ := List.mem_filterMap.mp h
    cases c <;> simp_all
  · exact fun h => List.mem_filterMap.mpr ⟨_, h, rfl⟩

/-! ## The decoder's call on the adapter -/

@[simp] theorem commandAdapter_direction (c : Option UartCommand) (a : Adapter) :
    (commandAdapter c a).direction = a.direction := by
  rcases c with _ | _ | _ <;> rfl

@[simp] theorem commandAdapter_enabled (c : Option UartCommand) (a : Adapter) :
    (commandAdapter c a).enabled = a.enabled := by
  rcases c with _ | _ | _ <;> rfl

theorem commandAdapter_rate (c : Option UartCommand) (a : Adapter) :
    (commandAdapter c a).rate = a.rate ∨ c = some (.configure (commandAdapter c a).rate) := by
  rcases c with _ | _ | _
  · exact .inl rfl
  · exact .inl rfl
  · exact .inr rfl

/-- No call of the decoder mends an upset adapter. -/
theorem not_upset_of_commandAdapter {c : Option UartCommand} {a : Adapter}
    (h : (commandAdapter c a).upset = false) : a.upset = false := by
  rcases c with _ | _ | _
  · exact h
  · exact h
  · exact (Bool.or_eq_false_iff.mp h).1

@[simp] theorem seizedAdapter_enabled (s : State) :
    (seizedAdapter s).enabled = s.adapter.enabled := by
  unfold seizedAdapter; split <;> rfl

@[simp] theorem seizedAdapter_rate (s : State) : (seizedAdapter s).rate = s.adapter.rate := by
  unfold seizedAdapter; split <;> rfl

/-! ## A tick: its polling, and the branch it selects -/

/-- What the polling of a tick leaves as it was, and that it adds queries alone to the trace. -/
structure PolledFrom (s u : State) : Prop where
  dstate : u.dstate = s.dstate
  talk : u.talk = s.talk
  phase : u.phase = s.phase
  adapter : AdapterFrame s.adapter u.adapter
  queries : ∃ qs, u.trace = s.trace ++ qs ∧ ∀ c ∈ qs, c.isQuery = true

theorem EnvFrame.polledFrom {e : State} (h : EnvFrame s e) (hq : ∀ c ∈ qs, c.isQuery = true) :
    PolledFrom s (polled e qs) :=
  ⟨h.dstate, h.talk, h.phase, h.adapter, qs, congrArg (· ++ qs) h.trace, hq⟩

theorem poll_polledFrom (m : TickMoves) (ops : List Op) (s : State) :
    PolledFrom s (poll m (setPending ops s)).2 := by
  obtain ⟨e, he, h⟩ := poll_cases m (setPending ops s)
  have of_queries {i qs} (hp : poll m (setPending ops s) = (i, polled e qs))
      (hq : ∀ c ∈ qs, c.isQuery = true) : PolledFrom s (poll m (setPending ops s)).2 := by
    rw [hp]
    exact { he.polledFrom hq with }
  rcases h with ⟨_, _, hp⟩ | ⟨_, hp⟩ | ⟨_, _, _, _, hp⟩ | ⟨_, hp⟩ | ⟨_, hp⟩ <;>
    exact of_queries hp (by simp [Call.isQuery])

/-- What the branch `i` of a tick does, from the state `u` the polling ends in. -/
inductive BranchDoes (i : Instr) (u t : State) : Prop where
  | rx (v : Frame) (branch : i = .tRx)
      (result : t = { u with
        adapter := { u.adapter with rxWaiting := none }
        hostPort := { u.hostPort with outbound := u.hostPort.outbound ++ encodeFrame v }
        trace := u.trace ++ (.uartReceive v :: (encodeFrame v).map .hostWrite) })
  | skip (branch : i = .tBusy ∨ i = .tIdle) (result : t = u)
  | host (b : Byte) (branch : i = .tHost) (result : t = afterHostByte b u)
  | rel (branch : i = .tRel)
      (result : t = { u with
        talk := false
        adapter := if u.talk then { u.adapter with direction := .listen } else u.adapter
        trace := u.trace ++ releaseCalls u.talk })

theorem execTRx_does (h : exec .tRx u = .next t) : BranchDoes .tRx u t := by
  obtain ⟨_, h⟩ := whenOpen_eq_next.mp h
  split at h
  · simp at h
  · rename_i v hv
    refine .rx v rfl ?_
    rw [hostWrites_eq] at h
    simpa [uartReceive, record, setAdapter] using h.symm

theorem execTHost_does (h : exec .tHost u = .next t) : BranchDoes .tHost u t := by
  obtain ⟨_, h⟩ := whenOpen_eq_next.mp h
  split at h
  · simp at h
  · exact .host _ rfl (hostByte_eq_next.mp h).2

theorem execTRel_does (h : exec .tRel u = .next t) : BranchDoes .tRel u t := by
  obtain ⟨_, h⟩ := whenOpen_eq_next.mp h
  exact .rel rfl (by rw [← releaseBus_eq]; simpa using h.symm)

theorem exec_skip_does (hi : i = .tBusy ∨ i = .tIdle) (h : exec i u = .next t) :
    BranchDoes i u t := by
  have hw : whenOpen u (.next u) = .next t := by rcases hi with rfl | rfl <;> exact h
  exact .skip hi (by simpa using (whenOpen_eq_next.mp hw).2.symm)

/-- A tick called next runs the branch the dispatcher selects, in the state it has polled. -/
theorem step_of_tick (h : s.pending = .tick m :: ops) :
    step s = exec (poll m (setPending ops s)).1 (poll m (setPending ops s)).2 := by
  simp only [step, select, h, settle]
  cases exec (poll m (setPending ops s)).1 (poll m (setPending ops s)).2 <;> rfl

/-- The branch selected, by name, and what it does. -/
theorem step_tick_does (hp : s.pending = .tick m :: ops) (h : step s = .next t) :
    BranchDoes (poll m (setPending ops s)).1 (poll m (setPending ops s)).2 t := by
  rw [step_of_tick hp] at h
  obtain ⟨_, _, hc⟩ := poll_cases m (setPending ops s)
  rcases hc with ⟨_, _, hp⟩ | ⟨_, hp⟩ | ⟨_, _, _, _, hp⟩ | ⟨_, hp⟩ | ⟨_, hp⟩ <;> rw [hp] at h ⊢
  · exact execTRx_does h
  · exact exec_skip_does (.inl rfl) h
  · exact execTHost_does h
  · exact execTRel_does h
  · exact exec_skip_does (.inr rfl) h

/-! ## What a branch does to each part of the state -/

theorem BranchDoes.phase (h : BranchDoes i u t) : t.phase = u.phase := by
  rcases h with ⟨_, _, rfl⟩ | ⟨_, rfl⟩ | ⟨_, _, rfl⟩ | ⟨_, rfl⟩ <;> rfl

/-- Only `T.HOST` writes `DSTATE` (R21). -/
theorem BranchDoes.dstate (h : BranchDoes i u t) (hi : i ≠ .tHost) : t.dstate = u.dstate := by
  rcases h with ⟨_, _, rfl⟩ | ⟨_, rfl⟩ | ⟨_, hb, _⟩ | ⟨_, rfl⟩
  · rfl
  · rfl
  · exact absurd hb hi
  · rfl

/-- The adapter's settings: once upset it stays so, it stays enabled or not, and a new rate is one of the
table. -/
theorem BranchDoes.settings (h : BranchDoes i u t) :
    (t.adapter.upset = false → u.adapter.upset = false) ∧ t.adapter.enabled = u.adapter.enabled ∧
      (t.adapter.rate = u.adapter.rate ∨ t.adapter.rate ∈ Config.baudTable) := by
  rcases h with ⟨_, _, rfl⟩ | ⟨_, rfl⟩ | ⟨b, _, rfl⟩ | ⟨_, rfl⟩
  · exact ⟨id, rfl, .inl rfl⟩
  · exact ⟨id, rfl, .inl rfl⟩
  · refine ⟨fun hu => ?_, by simp [afterHostByte], ?_⟩
    · simpa using not_upset_of_commandAdapter hu
    · rcases commandAdapter_rate (decoderStep u.dstate b).2 (seizedAdapter u) with hr | hr
      · exact .inl (by simpa [afterHostByte] using hr)
      · exact .inr (decoderStep_configure _ _ _ hr)
  · cases u.talk <;> exact ⟨id, rfl, .inl rfl⟩

/-- What a branch does to `TALK` and the bus: nothing, or it turns the bus with one call, to talk in
`T.HOST` and to listen in `T.REL` (R23, R27). -/
inductive BusChange (i : Instr) (u t : State) : Prop where
  | keeps (talk : t.talk = u.talk) (mode : t.adapter.direction = u.adapter.direction)
      (calls : ∃ cs, t.trace = u.trace ++ cs ∧ directionCalls cs = [])
  | turns (talk : t.talk = !u.talk) (branch : i = if t.talk then .tHost else .tRel)
      (mode : t.adapter.direction = directionOf t.talk)
      (calls : ∃ cs, t.trace = u.trace ++ cs ∧ directionCalls cs = [directionOf t.talk])

theorem BranchDoes.busChange (h : BranchDoes i u t) : BusChange i u t := by
  rcases h with ⟨v, _, rfl⟩ | ⟨_, rfl⟩ | ⟨b, rfl, rfl⟩ | ⟨rfl, rfl⟩
  · obtain ⟨_, _, _, _, hd⟩ := receiveCalls_readings v
    exact .keeps rfl rfl ⟨_, rfl, hd⟩
  · exact .keeps rfl rfl ⟨[], by simp, rfl⟩
  · obtain ⟨_, _, _, _, hd⟩ := hostCalls_readings b u.talk (decoderStep u.dstate b).2
    cases ht : u.talk with
    | true =>
      exact .keeps ht.symm (by simp [afterHostByte, seizedAdapter, ht]) ⟨_, rfl, hd.trans (if_pos ht)⟩
    | false =>
      exact .turns (by simp [afterHostByte, ht]) rfl
        (by simp [afterHostByte, seizedAdapter, ht, directionOf])
        ⟨_, rfl, hd.trans (if_neg (by simp [ht]))⟩
  · obtain ⟨_, _, _, _, hd⟩ := releaseCalls_readings u.talk
    cases ht : u.talk with
    | true => exact .turns (by simp [ht]) rfl rfl ⟨_, rfl, by rw [← ht]; exact hd.trans (if_pos ht)⟩
    | false => exact .keeps ht.symm rfl ⟨_, rfl, rfl⟩

/-- A branch hands the UART what the decoder makes of the bytes it reads, and leaves `DSTATE` there. -/
theorem BranchDoes.decodes (h : BranchDoes i u t) :
    ∃ cs, t.trace = u.trace ++ cs ∧ t.dstate = (runDecoder u.dstate (bytesRead cs)).1 ∧
      uartCommands cs = (runDecoder u.dstate (bytesRead cs)).2 := by
  rcases h with ⟨v, _, rfl⟩ | ⟨_, rfl⟩ | ⟨b, _, rfl⟩ | ⟨_, rfl⟩
  · obtain ⟨hr, _, _, hu, _⟩ := receiveCalls_readings v
    exact ⟨_, rfl, by rw [hr]; rfl, by rw [hr, hu]; rfl⟩
  · exact ⟨[], by simp, rfl, rfl⟩
  · obtain ⟨hr, _, _, hu, _⟩ := hostCalls_readings b u.talk (decoderStep u.dstate b).2
    exact ⟨_, rfl, by rw [hr]; rfl, by rw [hr, hu]; simp [runDecoder]⟩
  · obtain ⟨hr, _, _, hu, _⟩ := releaseCalls_readings u.talk
    exact ⟨_, rfl, by rw [hr]; rfl, by rw [hr, hu]; rfl⟩

/-- A branch writes the encodings of the frames it receives. -/
theorem BranchDoes.forwards (h : BranchDoes i u t) :
    ∃ cs, t.trace = u.trace ++ cs ∧
      bytesWritten cs = (framesReceived cs).flatMap encodeFrame := by
  rcases h with ⟨v, _, rfl⟩ | ⟨_, rfl⟩ | ⟨b, _, rfl⟩ | ⟨_, rfl⟩
  · obtain ⟨_, hw, hf, _, _⟩ := receiveCalls_readings v
    exact ⟨_, rfl, by rw [hw, hf]; simp⟩
  · exact ⟨[], by simp, rfl⟩
  · obtain ⟨_, hw, hf, _, _⟩ := hostCalls_readings b u.talk (decoderStep u.dstate b).2
    exact ⟨_, rfl, by rw [hw, hf]; rfl⟩
  · obtain ⟨_, hw, hf, _, _⟩ := releaseCalls_readings u.talk
    exact ⟨_, rfl, by rw [hw, hf]; rfl⟩

/-! ## The run before `OPEN` -/

theorem freshInv_resetBlock (s : State) : FreshInv (resetBlock s) :=
  ⟨fun _ => rfl, fun _ => rfl, fun _ => rfl⟩

theorem FreshInv.of_begun (h : s.phase ≠ .constructed) : FreshInv s :=
  ⟨fun k => absurd k h, fun k => absurd k h, fun k => absurd k h⟩

/-- Before `OPEN` a run that is as the reset left it is safe: nothing has been called. -/
theorem FreshInv.safeState (h : FreshInv s) (hp : s.phase = .constructed) : SafeState s where
  direction :=
    { fresh := h
      mode := fun k => absurd hp k
      last := fun k => absurd hp k
      first := fun k => absurd hp k
      alternating := by rw [h.trace hp]; rfl
      noOffline := by simp [h.trace hp] }
  decoder :=
    { fresh := h
      position := by rw [h.dstate hp, h.trace hp]; rfl
      commands := fun k => absurd hp k }
  outbound := by rw [OutboundInv, h.trace hp]; rfl
  peripheral :=
    { enabledWhenOpen := fun k => by simp [hp] at k
      disabledWhenClosed := fun k => by simp [hp] at k
      rate := fun k => absurd hp k }
  valid := by simp [h.dstate hp]

theorem safeState_resetBlock (s : State) : SafeState (resetBlock s) :=
  (freshInv_resetBlock s).safeState rfl

/-! ## The direction invariant -/

/-- `OPEN` calls `EnterListen()`, the first direction call of the run. -/
theorem FreshInv.directionInv_of_opening {baud : Nat} (h : FreshInv s) (hs : s.phase = .constructed)
    (ht : t.phase = .opened) (htalk : t.talk = s.talk)
    (htrace : t.trace = s.trace ++ [.uartConfigure baud, .uartStart, .enterListen])
    (hmode : t.adapter.direction = .listen) : DirectionInv t := by
  rw [h.talk hs] at htalk
  rw [h.trace hs] at htrace
  exact
    { fresh := .of_begun (by simp [ht])
      mode := fun _ _ => by rw [hmode, ht, htalk]; rfl
      last := fun _ => by rw [htrace, htalk]; rfl
      first := fun _ => by rw [htrace]; rfl
      alternating := by rw [htrace]; rfl
      noOffline := by simp [htrace] }

/-- Calls that leave `TALK` and the bus alone keep the invariant. -/
theorem DirectionInv.of_no_direction_call (h : DirectionInv s) (hs : s.phase ≠ .constructed)
    (ht : t.phase ≠ .constructed) (htalk : t.talk = s.talk) (htrace : t.trace = s.trace ++ cs)
    (hcs : directionCalls cs = [])
    (hmode : t.adapter.upset = false → t.adapter.direction = modeIn t.phase t.talk) :
    DirectionInv t := by
  have hcalls : directionCalls t.trace = directionCalls s.trace := by
    rw [htrace, directionCalls_append, hcs, List.append_nil]
  exact
    { fresh := .of_begun ht
      mode := fun _ => hmode
      last := fun _ => by rw [hcalls, htalk, h.last hs]
      first := fun _ => by rw [hcalls, h.first hs]
      alternating := by rw [hcalls, h.alternating]
      noOffline := by
        rw [← offline_mem_directionCalls, hcalls, offline_mem_directionCalls]
        exact h.noOffline }

/-- One call that turns the bus keeps the invariant: the call before it was the other one. -/
theorem DirectionInv.of_turn (h : DirectionInv s) (hs : s.phase = .opened) (ht : t.phase = .opened)
    (htalk : t.talk = !s.talk) (htrace : t.trace = s.trace ++ cs)
    (hcs : directionCalls cs = [directionOf t.talk])
    (hmode : t.adapter.direction = directionOf t.talk) : DirectionInv t := by
  have hs' : s.phase ≠ .constructed := by simp [hs]
  have hcalls : directionCalls t.trace = directionCalls s.trace ++ [directionOf t.talk] := by
    rw [htrace, directionCalls_append, hcs]
  have hother : directionOf s.talk ≠ directionOf t.talk := by
    rw [htalk]
    cases s.talk <;> decide
  have hoff : ∀ talk, BusDirection.offline ≠ directionOf talk := by decide
  exact
    { fresh := .of_begun (by simp [ht])
      mode := fun _ _ => by rw [hmode, ht]; rfl
      last := fun _ => by rw [hcalls, List.getLast?_concat]
      first := fun _ => by rw [hcalls, List.head?_append, h.first hs']; rfl
      alternating := by
        rw [hcalls]
        refine alternates_append h.alternating fun y hy => ?_
        rw [h.last hs', Option.some.injEq] at hy
        exact hy ▸ hother
      noOffline := by
        rw [← offline_mem_directionCalls, hcalls, List.mem_append, offline_mem_directionCalls,
          List.mem_singleton]
        exact not_or.mpr ⟨h.noOffline, hoff _⟩ }

theorem DirectionInv.of_polledFrom (h : DirectionInv s) (hs : s.phase ≠ .constructed)
    (hu : PolledFrom s u) : DirectionInv u := by
  obtain ⟨qs, htrace, hq⟩ := hu.queries
  obtain ⟨_, _, _, _, hd⟩ := queries_are_only_queries hq
  refine h.of_no_direction_call hs (hu.phase ▸ hs) hu.talk htrace hd fun hup => ?_
  have hsup := hu.adapter.upset.symm.trans hup
  rw [hu.adapter.direction hsup, h.mode hs hsup, hu.phase, hu.talk]

theorem DirectionInv.of_branchDoes (h : DirectionInv u) (hu : u.phase = .opened)
    (hb : BranchDoes i u t) : DirectionInv t := by
  have hu' : u.phase ≠ .constructed := by simp [hu]
  obtain ⟨hup, _, _⟩ := hb.settings
  rcases hb.busChange with ⟨htalk, hmode, _, htrace, hcs⟩ | ⟨htalk, _, hmode, _, htrace, hcs⟩
  · refine h.of_no_direction_call hu' (hb.phase ▸ hu') htalk htrace hcs fun hk => ?_
    rw [hmode, h.mode hu' (hup hk), hb.phase, htalk]
  · exact h.of_turn hu (hb.phase.trans hu) htalk htrace hcs hmode

theorem step_keeps_directionInv (h : DirectionInv s) (hstep : step s = .next t) :
    DirectionInv t := by
  rcases step_cases hstep with ⟨_, rfl⟩ | ⟨_, _, rfl⟩ | ⟨_, before, _, _, _, hp, _, rfl⟩ |
    ⟨_, _, hp, rfl⟩ | ⟨m, ops, hnext, hp, _, _, _⟩
  · exact h
  · exact (safeState_resetBlock _).direction
  · exact h.fresh.directionInv_of_opening hp rfl (envMoves_frame before s).talk rfl rfl
  · have hp' : s.phase ≠ .constructed := by simp [hp]
    refine h.of_no_direction_call hp' (by simp) rfl rfl rfl fun hup => ?_
    simp only [h.mode hp' hup, hp, modeIn]
  · have hu := poll_polledFrom m ops s
    exact (h.of_polledFrom (by simp [hp]) hu).of_branchDoes (hu.phase.trans hp)
      (step_tick_does hnext hstep)

/-! ## The decoder invariant -/

/-- The decoder never leaves `DSTATE` at its fourth value (R149). -/
theorem runDecoder_ne_invalid {d : DState} (h : d ≠ .invalid) (bs : List Byte) :
    (runDecoder d bs).1 ≠ .invalid := by
  have hstep (d : DState) (b : Byte) : (decoderStep d b).1 ≠ .invalid := by
    cases d <;> simp only [decoderStep, decodeIdle, decodeEscape, decodeHigh, decodeInvalid]
    · split <;> simp
    · split
      · simp
      · split
        · simp
        · split <;> simp
    · simp
    · simp
  induction bs generalizing d with
  | nil => exact h
  | cons b bs ih => exact ih (hstep d b)

theorem DecoderInv.valid (h : DecoderInv s) : s.dstate ≠ .invalid := by
  rw [h.position]
  exact runDecoder_ne_invalid (by simp) _

/-- `OPEN` configures the rate it starts with, the first UART command of the run. -/
theorem FreshInv.decoderInv_of_opening {baud : Nat} (h : FreshInv s) (hs : s.phase = .constructed)
    (hb : baud ∈ Config.baudTable) (ht : t.phase = .opened) (hd : t.dstate = s.dstate)
    (htrace : t.trace = s.trace ++ [.uartConfigure baud, .uartStart, .enterListen]) :
    DecoderInv t := by
  rw [h.dstate hs] at hd
  rw [h.trace hs] at htrace
  exact
    { fresh := .of_begun (by simp [ht])
      position := by rw [hd, htrace]; rfl
      commands := fun _ => ⟨baud, hb, by rw [htrace]; rfl⟩ }

/-- Calls that hand the UART what the decoder makes of the bytes they read keep the invariant. -/
theorem DecoderInv.of_decoded (h : DecoderInv s) (hs : s.phase ≠ .constructed)
    (ht : t.phase ≠ .constructed) (htrace : t.trace = s.trace ++ cs)
    (hd : t.dstate = (runDecoder s.dstate (bytesRead cs)).1)
    (hc : uartCommands cs = (runDecoder s.dstate (bytesRead cs)).2) : DecoderInv t := by
  obtain ⟨baud, hb, hcmd⟩ := h.commands hs
  have hread : bytesRead t.trace = bytesRead s.trace ++ bytesRead cs := by
    rw [htrace, bytesRead_append]
  rw [h.position] at hd hc
  exact
    { fresh := .of_begun ht
      position := by rw [hread, runDecoder_append, hd]
      commands := fun _ => ⟨baud, hb, by
        rw [hread, runDecoder_append, htrace, uartCommands_append, hcmd, hc, List.cons_append]⟩ }

theorem DecoderInv.of_polledFrom (h : DecoderInv s) (hs : s.phase ≠ .constructed)
    (hu : PolledFrom s u) : DecoderInv u := by
  obtain ⟨qs, htrace, hq⟩ := hu.queries
  obtain ⟨hr, _, _, hc, _⟩ := queries_are_only_queries hq
  exact h.of_decoded hs (hu.phase ▸ hs) htrace (by rw [hr]; exact hu.dstate) (by rw [hr, hc]; rfl)

theorem step_keeps_decoderInv (h : DecoderInv s) (hstep : step s = .next t) : DecoderInv t := by
  rcases step_cases hstep with ⟨_, rfl⟩ | ⟨_, _, rfl⟩ | ⟨_, before, _, _, _, hp, hb, rfl⟩ |
    ⟨_, _, hp, rfl⟩ | ⟨m, ops, hnext, hp, _, _, _⟩
  · exact h
  · exact (safeState_resetBlock _).decoder
  · exact h.fresh.decoderInv_of_opening hp hb rfl (envMoves_frame before s).dstate rfl
  · exact h.of_decoded (by simp [hp]) (by simp) rfl rfl rfl
  · have hp' : s.phase ≠ .constructed := by simp [hp]
    have hu := poll_polledFrom m ops s
    have hb := step_tick_does hnext hstep
    have hu' := hu.phase ▸ hp'
    obtain ⟨_, htrace, hd, hc⟩ := hb.decodes
    exact (h.of_polledFrom hp' hu).of_decoded hu' (hb.phase ▸ hu') htrace hd hc

/-! ## The outbound invariant -/

/-- Calls that write the encodings of the frames they receive keep the invariant. -/
theorem OutboundInv.of_forwarded (h : OutboundInv s) (htrace : t.trace = s.trace ++ cs)
    (hcs : bytesWritten cs = (framesReceived cs).flatMap encodeFrame) : OutboundInv t := by
  unfold OutboundInv at h ⊢
  rw [htrace, bytesWritten_append, framesReceived_append, List.flatMap_append, h, hcs]

theorem OutboundInv.of_polledFrom (h : OutboundInv s) (hu : PolledFrom s u) : OutboundInv u := by
  obtain ⟨qs, htrace, hq⟩ := hu.queries
  obtain ⟨_, hw, hf, _, _⟩ := queries_are_only_queries hq
  exact h.of_forwarded htrace (by rw [hw, hf]; rfl)

theorem step_keeps_outboundInv (h : OutboundInv s) (hstep : step s = .next t) : OutboundInv t := by
  rcases step_cases hstep with ⟨_, rfl⟩ | ⟨_, _, rfl⟩ | ⟨_, _, _, _, _, _, _, rfl⟩ |
    ⟨_, _, _, rfl⟩ | ⟨m, ops, hnext, _, _, _, _⟩
  · exact h
  · exact (safeState_resetBlock _).outbound
  · exact h.of_forwarded rfl rfl
  · exact h.of_forwarded rfl rfl
  · obtain ⟨_, htrace, hcs⟩ := (step_tick_does hnext hstep).forwards
    exact (h.of_polledFrom (poll_polledFrom m ops s)).of_forwarded htrace hcs

/-! ## The peripheral invariant -/

/-- While the bridge is open, a new rate of the table and the enable state as it was keep the invariant. -/
theorem PeripheralInv.of_settings (h : PeripheralInv s) (hs : s.phase = .opened)
    (ht : t.phase = .opened) (hup : t.adapter.upset = false → s.adapter.upset = false)
    (hen : s.adapter.upset = false → t.adapter.enabled = s.adapter.enabled)
    (hrate : s.adapter.upset = false →
      t.adapter.rate = s.adapter.rate ∨ t.adapter.rate ∈ Config.baudTable) :
    PeripheralInv t where
  enabledWhenOpen _ hu := (hen (hup hu)).trans (h.enabledWhenOpen hs (hup hu))
  disabledWhenClosed k := by simp [ht] at k
  rate _ hu := by
    rcases hrate (hup hu) with hr | hr
    · rw [hr]
      exact h.rate (by simp [hs]) (hup hu)
    · exact hr

theorem step_keeps_peripheralInv (h : PeripheralInv s) (hstep : step s = .next t) :
    PeripheralInv t := by
  rcases step_cases hstep with ⟨_, rfl⟩ | ⟨_, _, rfl⟩ | ⟨_, _, _, _, _, _, hb, rfl⟩ |
    ⟨_, _, hp, rfl⟩ | ⟨m, ops, hnext, hp, _, _, _⟩
  · exact h
  · exact (safeState_resetBlock _).peripheral
  · exact ⟨fun _ _ => rfl, fun k => by simp at k, fun _ _ => hb⟩
  · exact ⟨fun k => by simp at k, fun _ _ => rfl, fun _ => h.rate (by simp [hp])⟩
  · have hu := poll_polledFrom m ops s
    have hb := step_tick_does hnext hstep
    have hpu := hu.phase.trans hp
    obtain ⟨hup, hen, hrate⟩ := hb.settings
    refine (h.of_settings hp hpu (hu.adapter.upset ▸ id) hu.adapter.enabled
      fun k => .inl (hu.adapter.rate k)).of_settings hpu (hb.phase.trans hpu) hup
        (fun _ => hen) fun _ => hrate

/-! ## Safe runs -/

theorem step_keeps_safety (h : SafeState s) (hstep : step s = .next t) : SafeState t :=
  have hdecoder := step_keeps_decoderInv h.decoder hstep
  { direction := step_keeps_directionInv h.direction hstep
    decoder := hdecoder
    outbound := step_keeps_outboundInv h.outbound hstep
    peripheral := step_keeps_peripheralInv h.peripheral hstep
    valid := hdecoder.valid }

/-- What every step keeps, every run keeps. -/
theorem run_keeps {P : State → Prop} (hP : ∀ s t, P s → step s = .next t → P t) (n : Nat)
    (h : P s) (hrun : Host.Core.run Sys2Proof.core n s = .next t) : P t := by
  induction n generalizing s with
  | zero =>
    exact Host.Outcome.next.inj hrun ▸ h
  | succ n ih =>
    cases hs : step s with
    | next u =>
      rw [run_succ hs] at hrun
      exact ih (hP s u h hs) hrun
    | fault r => cases r
    | refused r =>
      have hs' : Sys2Proof.core.step s = .refused r := hs
      simp [Host.Core.run, hs'] at hrun

end

/-! ## The obligations -/

/-- Settles O54: each operation the outside can call keeps the invariant. -/
theorem stepKeepsDirectionInvariant : Obligations.StepKeepsDirectionInvariant :=
  fun _ _ h hstep => step_keeps_directionInv h hstep

/-- Settles O60, by induction on the number of steps. -/
theorem runKeepsSafety : Obligations.RunKeepsSafety :=
  fun n _ _ h hrun => run_keeps (fun _ _ => step_keeps_safety) n h hrun

/-- Settles O46: `OPEN` and `CLOSE` leave `DSTATE`, the polling of a tick leaves it, and so does every
branch but `T.HOST`. -/
theorem onlyHostBranchWritesDecoderState : Obligations.OnlyHostBranchWritesDecoderState := by
  intro s t hstep hne
  rcases step_cases hstep with ⟨_, rfl⟩ | ⟨ops, hnext, _⟩ | ⟨_, before, _, _, _, _, _, rfl⟩ |
    ⟨_, _, _, rfl⟩ | ⟨m, ops, hnext, _, _, _, _⟩
  · exact absurd rfl hne
  · exact .inr ⟨ops, hnext⟩
  · exact absurd (envMoves_frame before s).dstate hne
  · exact absurd rfl hne
  · by_cases hhost : (poll m (setPending ops s)).1 = .tHost
    · exact .inl ⟨m, ops, hnext, hhost⟩
    · have hkept := (step_tick_does hnext hstep).dstate hhost
      exact absurd (hkept.trans (poll_polledFrom m ops s).dstate) hne

/-- Settles O47: a tick that changes `TALK` turns the bus, in the branch `BusChange` names; the other
operations leave `TALK`, but for a reset. -/
theorem talkChangesWithItsDirectionCall : Obligations.TalkChangesWithItsDirectionCall := by
  intro s t hstep hne
  rcases step_cases hstep with ⟨_, rfl⟩ | ⟨ops, hnext, _⟩ | ⟨_, before, _, _, _, _, _, rfl⟩ |
    ⟨_, _, _, rfl⟩ | ⟨m, ops, hnext, _, _, _, _⟩
  · exact absurd rfl hne
  · exact .inr (.inr ⟨ops, hnext⟩)
  · exact absurd (envMoves_frame before s).talk hne
  · exact absurd rfl hne
  · have hu := poll_polledFrom m ops s
    rcases (step_tick_does hnext hstep).busChange with ⟨htalk, _, _⟩ |
      ⟨htalk, hbranch, hmode, cs, htrace, hcs⟩
    · exact absurd (htalk.trans hu.talk) hne
    obtain ⟨qs, hqtrace, hq⟩ := hu.queries
    obtain ⟨_, _, _, _, hqs⟩ := queries_are_only_queries hq
    have hcalls : ∃ cs, t.trace = s.trace ++ cs ∧ directionCalls cs = [directionOf t.talk] :=
      ⟨qs ++ cs, by rw [htrace, hqtrace, List.append_assoc],
        by rw [directionCalls_append, hqs, hcs, List.nil_append]⟩
    rw [hu.talk] at htalk
    cases hs : s.talk <;> rw [hs] at htalk <;> rw [htalk] at hbranch hmode hcalls
    · exact .inl ⟨rfl, ⟨m, ops, hnext, hbranch⟩, hmode, hcalls⟩
    · exact .inr (.inl ⟨rfl, ⟨m, ops, hnext, hbranch⟩, hmode, hcalls⟩)

/-- Settles O36: the reset values and the encodings by evaluation, the correspondence by cases. -/
theorem resetClearsRegisters : Obligations.ResetClearsRegisters := by
  refine ⟨rfl, rfl, rfl, rfl, rfl, rfl, rfl, rfl, rfl, rfl, fun d => ?_, by decide⟩
  cases d <;> rfl

/-- Settles O39: with one byte left, which stands first, the sequence's ticks and `T.HOST` both run the
body of `T.HOST` for that byte. -/
theorem stepRunsDecodedSequence : Obligations.StepRunsDecodedSequence := by
  intro s m ops i b rest hnext hdir hhost hlast hport
  have hd := (poll_polledFrom m ops s).dstate
  rw [step_of_tick hnext, hhost, exec_sequence hdir]
  generalize (poll m (setPending ops s)).2 = u at hport hd
  have hseq : hostBytes [b] u = hostByte b u := by
    rw [← expectByte_of_head hport]
    simp only [hostBytes]
    cases expectByte b u <;> rfl
  simp only [exec, execTHost, hport, runSequence, hd, hlast, hseq]

/-- Settles O59: the reset state is fresh, and a fresh state is safe. -/
theorem resetIsSafe : Obligations.ResetIsSafe :=
  FreshInv.safeState ⟨fun _ => rfl, fun _ => rfl, fun _ => rfl⟩ rfl

end Sys2Proof.Machine

/-!
SUPPORT. The proofs of the family 20_memory.md: the contracts of the two collaborators, as the environment
keeps them and as a tick keeps them, and the refusal of a call that would break one. The three invariants
are kept by the lemmas of the family before; a tick's calls are read off `BranchDoes` where the answers do
not matter, and off `TickCalls` where they do.
-/

namespace Sys2Proof.Machine

section

variable {s t u e : State} {i : Instr} {m : TickMoves} {ops : List Op} {cs qs : List Call}

/-! ## How much a tick moves (R64) -/

/-- The bounds of R64 on the calls of one tick. -/
def MovesOneUnit (cs : List Call) : Prop :=
  (framesReceived cs).length + (bytesRead cs).length ≤ 1 ∧
  (bytesWritten cs).length ≤ 3 ∧ (uartCommands cs).length ≤ 1 ∧
  (bytesWritten cs = [] ∨ (uartCommands cs = [] ∧ directionCalls cs = []))

/-- Queries move nothing. -/
theorem MovesOneUnit.after_queries (h : MovesOneUnit cs) (hq : ∀ c ∈ qs, c.isQuery = true) :
    MovesOneUnit (qs ++ cs) := by
  obtain ⟨hr, hw, hf, hu, hd⟩ := queries_are_only_queries hq
  simpa only [MovesOneUnit, bytesRead_append, bytesWritten_append, framesReceived_append,
    uartCommands_append, directionCalls_append, hr, hw, hf, hu, hd, List.nil_append] using h

theorem BranchDoes.movesOneUnit (h : BranchDoes i u t) :
    ∃ cs, t.trace = u.trace ++ cs ∧ MovesOneUnit cs := by
  rcases h with ⟨v, _, rfl⟩ | ⟨_, rfl⟩ | ⟨b, _, rfl⟩ | ⟨_, rfl⟩
  · obtain ⟨hr, hw, hf, hu, hd⟩ := receiveCalls_readings v
    refine ⟨_, rfl, ?_⟩
    simp only [MovesOneUnit, hr, hw, hf, hu, hd]
    exact ⟨le_rfl, encodeFrame_length_le v, by simp, .inr (by simp)⟩
  · exact ⟨[], by simp, by decide, by decide, by decide, .inl rfl⟩
  · obtain ⟨hr, hw, hf, hu, _⟩ := hostCalls_readings b u.talk (decoderStep u.dstate b).2
    refine ⟨_, rfl, ?_⟩
    simp only [MovesOneUnit, hr, hw, hf, hu]
    exact ⟨le_rfl, by simp, Option.length_toList_le, .inl trivial⟩
  · obtain ⟨hr, hw, hf, hu, _⟩ := releaseCalls_readings u.talk
    refine ⟨_, rfl, ?_⟩
    simp only [MovesOneUnit, hr, hw, hf, hu]
    exact ⟨by simp, by simp, by simp, .inl trivial⟩

/-! ## Where a call stands among the calls of a tick -/

theorem transmit_mem_uartCommands {f : Frame} (h : .uartTransmit f ∈ cs) :
    .transmit f ∈ uartCommands cs :=
  List.mem_filterMap.mpr ⟨_, h, rfl⟩

theorem listen_mem_directionCalls (h : .enterListen ∈ cs) : .listen ∈ directionCalls cs :=
  List.mem_filterMap.mpr ⟨_, h, rfl⟩

theorem releaseBus_line (s : State) : (releaseBus s).adapter.line = s.adapter.line := by
  unfold releaseBus; split <;> rfl

/-- A member that is none of the first elements of a list stands after all of them. -/
theorem mem_of_append_eq {α : Type} {front rest before after : List α} {x y : α}
    (h : front ++ rest = before ++ x :: after) (hx : x ∉ front) (hy : y ∈ front) : y ∈ before := by
  rcases List.append_eq_append_iff.mp h with ⟨more, rfl, _⟩ | ⟨more, rfl, hmore⟩
  · exact List.mem_append_left _ hy
  · cases more with
    | nil => simpa using hy
    | cons z more =>
      obtain ⟨rfl, _⟩ := List.cons.inj hmore
      simp at hx

/-- The calls of a tick that goes from `e` to `t`, by its branch (Table R119), with what the branch that
transmits and the branch that releases say of the two states. -/
inductive TickCalls (e t : State) : List Call → Prop where
  | rx (v : Frame) :
      TickCalls e t (.uartRxReady true :: .uartReceive v :: (encodeFrame v).map .hostWrite)
  | busy : TickCalls e t [.uartRxReady false, .uartTxBusy true]
  | host (n : Nat) (b : Byte) (talk : t.talk = true) :
      TickCalls e t ([.uartRxReady false, .uartTxBusy false, .hostAvail n] ++
        (.hostRead b :: seizeCalls e.talk ++ commandCalls (decoderStep e.dstate b).2))
  | rel (complete : lineComplete e.adapter.line = true)
      (line : t.adapter.line = e.adapter.line) :
      TickCalls e t ([.uartRxReady false, .uartTxBusy false, .hostAvail 0, .uartTxComplete true] ++
        releaseCalls e.talk)
  | idle : TickCalls e t
      [.uartRxReady false, .uartTxBusy false, .hostAvail 0, .uartTxComplete false]

theorem TickDoes.calls (h : TickDoes e t) (htrace : t.trace = e.trace ++ cs) : TickCalls e t cs := by
  rcases h with ⟨v, _, rfl⟩ | rfl | ⟨b, rest, _, _, rfl⟩ | ⟨hc, rfl⟩ | rfl
  · obtain rfl := List.append_cancel_left htrace
    exact .rx v
  · obtain rfl := List.append_cancel_left htrace
    exact .busy
  · obtain rfl := List.append_cancel_left ((List.append_assoc _ _ _).symm.trans htrace)
    exact .host _ b rfl
  · rw [releaseBus_eq] at htrace
    obtain rfl := List.append_cancel_left ((List.append_assoc _ _ _).symm.trans htrace)
    exact .rel hc (releaseBus_line _)
  · obtain rfl := List.append_cancel_left htrace
    exact .idle

/-- A completed tick adds the calls of one branch, which starts where the environment has moved to `e`. -/
theorem step_tick_cases (hp : s.pending = .tick m :: ops) (h : step s = .next t)
    (htrace : t.trace = s.trace ++ cs) :
    ∃ e, EnvFrame (setPending ops s) e ∧ TickCalls e t cs := by
  rcases step_cases h with ⟨hn, _⟩ | ⟨_, hn, _⟩ | ⟨_, _, _, _, hn, _, _, _⟩ | ⟨_, hn, _, _⟩ |
    ⟨_, _, hn, _, e, hf, hd⟩
  case tick =>
    obtain ⟨⟨rfl⟩, rfl⟩ : _ ∧ _ := by simpa using hp.symm.trans hn
    exact ⟨e, hf, hd.calls (by rw [htrace, hf.trace]; rfl)⟩
  all_goals simp [hp] at hn

/-- Only `T.HOST` hands a frame to the UART, with the bus driven, after the queries that led to it. -/
theorem TickCalls.host_of_transmit {f : Frame} (h : TickCalls e t cs) (hcs : .uartTransmit f ∈ cs) :
    t.talk = true ∧
      ∃ n rest, cs = [.uartRxReady false, .uartTxBusy false, .hostAvail n] ++ rest := by
  have hcmd := transmit_mem_uartCommands hcs
  cases h with
  | rx v =>
    obtain ⟨_, _, _, hu, _⟩ := receiveCalls_readings v
    exact absurd hcmd (List.eq_nil_iff_forall_not_mem.mp hu _)
  | busy => simp at hcs
  | host n b htalk => exact ⟨htalk, n, _, rfl⟩
  | rel =>
    obtain ⟨_, _, _, hu, _⟩ := releaseCalls_readings e.talk
    exact absurd hcmd (List.eq_nil_iff_forall_not_mem.mp hu _)
  | idle => simp at hcs

/-- Only `T.REL` releases the bus, once `transmit_complete()` has answered true; it leaves the line. -/
theorem TickCalls.rel_of_enterListen (h : TickCalls e t cs) (hcs : .enterListen ∈ cs) :
    lineComplete e.adapter.line = true ∧ t.adapter.line = e.adapter.line := by
  have hdir := listen_mem_directionCalls hcs
  cases h with
  | rx v =>
    obtain ⟨_, _, _, _, hd⟩ := receiveCalls_readings v
    exact absurd hdir (List.eq_nil_iff_forall_not_mem.mp hd _)
  | busy => simp at hcs
  | host n b =>
    obtain ⟨_, _, _, _, hd⟩ := hostCalls_readings b e.talk (decoderStep e.dstate b).2
    have hseize := (congrArg (.listen ∈ ·) hd).mp hdir
    cases ht : e.talk <;> simp [ht] at hseize
  | rel hcomplete hline => exact ⟨hcomplete, hline⟩
  | idle => simp at hcs

/-! ## The line and the holding place (R45, R47, R56) -/

/-- `transmit_complete()` is true of no frame that is still on its way out. -/
theorem isDraining_of_complete {l : TxLine} (h : lineComplete l = true) : isDraining l = false := by
  cases l with
  | draining f => simp [lineComplete] at h
  | unreferenced answer => rfl
  | left f => rfl

/-- A frame on its way out that the environment leaves complete has left. -/
theorem AdapterFrame.left_of_complete {a a' : Adapter} {f : Frame} (h : AdapterFrame a a')
    (hup : a.upset = false) (hline : a.line = .draining f) (hc : lineComplete a'.line = true) :
    a'.line = .left f := by
  rcases h.draining hup f hline with hd | hl
  · simp [hd, lineComplete] at hc
  · exact hl

/-- A waiting frame is not withdrawn (R45). -/
theorem adapterAfterMove_waiting {a : Adapter} (mv : EnvMove) (hup : a.upset = false)
    (h : a.rxWaiting.isSome = true) : (adapterAfterMove a mv).rxWaiting.isSome = true := by
  cases mv with
  | frameArrives v => rfl
  | frameWithdrawn => simpa [adapterAfterMove, hup] using h
  | upsetSettings => simpa [adapterAfterMove, hup] using h
  | _ => exact h

theorem envMoves_waiting (ms : List EnvMove) (hup : s.adapter.upset = false)
    (h : s.adapter.rxWaiting.isSome = true) :
    (envMoves ms s).adapter.rxWaiting.isSome = true := by
  induction ms generalizing s with
  | nil => exact h
  | cons mv ms ih =>
    exact ih ((envMove_frame mv s).adapter.upset.trans hup) (adapterAfterMove_waiting mv hup h)

/-- Only the move that ends it ends a frame on its way out (R47). -/
theorem adapterAfterMove_draining {a : Adapter} {f : Frame} {mv : EnvMove} (hup : a.upset = false)
    (h : a.line = .draining f) (hmv : mv ≠ .lineIdle) : (adapterAfterMove a mv).line = .draining f := by
  cases mv with
  | lineIdle => exact absurd rfl hmv
  | lineAnswer => simp [adapterAfterMove, hup, h]
  | upsetSettings => simpa [adapterAfterMove, hup] using h
  | _ => exact h

theorem envMoves_draining {f : Frame} {ms : List EnvMove} (hup : s.adapter.upset = false)
    (h : s.adapter.line = .draining f) (hms : EnvMove.lineIdle ∉ ms) :
    (envMoves ms s).adapter.line = .draining f := by
  induction ms generalizing s with
  | nil => exact h
  | cons mv ms ih =>
    obtain ⟨hmv, hms⟩ := not_or.mp (List.mem_cons.not.mp hms)
    exact ih ((envMove_frame mv s).adapter.upset.trans hup)
      (adapterAfterMove_draining hup h (Ne.symm hmv)) hms

/-! ## Reading the bytes of a sequence (R58, R156) -/

theorem andThen_assoc (o : Host.Outcome State Fault Refusal)
    (k l : State → Host.Outcome State Fault Refusal) :
    andThen (andThen o k) l = andThen o fun u => andThen (k u) l := by
  cases o <;> rfl

theorem andThen_congr {o : Host.Outcome State Fault Refusal}
    {k l : State → Host.Outcome State Fault Refusal} (h : ∀ u, o = .next u → k u = l u) :
    andThen o k = andThen o l := by
  cases o with
  | next u => exact h u rfl
  | fault r => rfl
  | refused r => rfl

/-- The bytes the port holds are read by as many `T.HOST` ticks; what comes after them starts with the
rest of the port. -/
theorem hostBytes_append_of_inbound {pre rest more : List Byte}
    {k : State → Host.Outcome State Fault Refusal} (hp : s.phase = .opened)
    (hi : s.hostPort.inbound = pre ++ more)
    (hk : ∀ u, u.hostPort.inbound = more → hostBytes rest u = k u) :
    hostBytes (pre ++ rest) s = andThen (tHostTimes pre.length s) k := by
  induction pre generalizing s with
  | nil => exact hk s hi
  | cons b pre ih =>
    simp only [List.cons_append, List.length_cons, hostBytes, tHostTimes, expectByte_of_head hi,
      exec_tHost hp hi, andThen_assoc]
    refine andThen_congr fun u hu => ?_
    obtain ⟨_, rfl⟩ := hostByte_eq_next.mp hu
    exact ih hp (by simp [afterHostByte, hi])

/-- Bytes of which the decoder makes no command are read whatever the transmitter does. -/
theorem tHostTimes_of_no_command {bs more : List Byte} (hp : s.phase = .opened)
    (hi : s.hostPort.inbound = bs ++ more) (hcmd : (runDecoder s.dstate bs).2 = []) :
    ∃ u, tHostTimes bs.length s = .next u ∧ u.dstate = (runDecoder s.dstate bs).1 ∧
      u.adapter.txBusy = s.adapter.txBusy ∧ u.hostPort.inbound = more := by
  induction bs generalizing s with
  | nil => exact ⟨s, rfl, rfl, rfl, hi⟩
  | cons b bs ih =>
    obtain ⟨hb, hbs⟩ := List.append_eq_nil_iff.mp hcmd
    have hnone := Option.toList_eq_nil_iff.mp hb
    have hread : exec .tHost s = .next (afterHostByte b s) := by
      simp [exec_tHost hp hi, hostByte_eq, hnone]
    obtain ⟨u, hu, hd, hbusy, hmore⟩ := ih (s := afterHostByte b s) hp
      (by simp [afterHostByte, hi]) hbs
    refine ⟨u, by simpa [tHostTimes, hread] using hu, hd, ?_, hmore⟩
    simpa [afterHostByte, hnone, commandAdapter] using hbusy

/-- An opened bridge reads what `DSTATE` says is left of a sequence. -/
theorem exec_sequence_of_opened (hdir : i.direction = some .hostToDevice) (hp : s.phase = .opened) :
    exec i s = hostBytes (sequenceRest i s.dstate) s := by
  rw [exec_sequence hdir, runSequence, whenOpen_opened hp]

/-- The name under which the read of `c` is refused in a port that holds `more`: it is empty, or another byte
stands first (93 U2; log entry 3). -/
def NotRead (c : Byte) (more : List Byte) (why : Refusal) : Prop :=
  more = [] ∧ why = .readNotAvailable ∨
    ∃ d ds, more = d :: ds ∧ d ≠ c ∧ why = .sequenceNotInPort

theorem hostBytes_refused {c : Byte} {cs more : List Byte} {why : Refusal}
    (hwhy : NotRead c more why) (hi : s.hostPort.inbound = more) :
    hostBytes (c :: cs) s = .refused why := by
  rcases hwhy with ⟨rfl, rfl⟩ | ⟨d, ds, rfl, hne, rfl⟩
  · simp [hostBytes, expectByte, hi]
  · simp [hostBytes, expectByte, hi, hne]

/-- A byte of which the decoder makes a frame is refused while the holding register is not ready. -/
theorem hostByte_of_busy {b : Byte} {f : Frame} (hbusy : s.adapter.txBusy = true)
    (hf : (decoderStep s.dstate b).2 = some (.transmit f)) :
    hostByte b s = .refused .transmitWhileBusy := by
  rw [hostByte_eq, if_pos ⟨hbusy, f, hf⟩]

/-- From `IDLE` the decoder makes no command of a sequence before its last byte. -/
theorem runDecoder_dropLast_encode (i : Instr) : (runDecoder .idle (encode i).dropLast).2 = [] := by
  cases i <;> rfl

/-- So it makes none of the bytes read while one is still to come. -/
theorem runDecoder_of_encode_eq {pre cs : List Byte} {c : Byte} (he : encode i = pre ++ c :: cs) :
    (runDecoder .idle pre).2 = [] := by
  have hnone := runDecoder_dropLast_encode i
  rw [he, List.dropLast_append_cons, runDecoder_append] at hnone
  exact (List.append_eq_nil_iff.mp hnone).1

/-- The last byte of a sequence that stands for a frame hands it over (R151 to R153). -/
theorem encode_transmits {v : Frame} (hwf : i.wf = true) (h : i.direction = some .hostToDevice)
    (hv : i.frame = some v) :
    ∃ pre b, encode i = pre ++ [b] ∧
      (decoderStep (runDecoder .idle pre).1 b).2 = some (.transmit v) := by
  cases i with
  | data dd =>
    obtain rfl := Option.some.inj hv
    have hdd : dd ≠ Config.esc := by simpa [Instr.wf] using hwf
    exact ⟨[], dd, rfl, by simp [runDecoder, decoderStep, decodeIdle, hdd, plainFrame]⟩
  | dataff =>
    obtain rfl := Option.some.inj hv
    exact ⟨[0xFF#8], 0xFF#8, rfl, by decide⟩
  | high dd =>
    obtain rfl := Option.some.inj hv
    exact ⟨[0xFF#8, 0x01#8], dd, rfl, rfl⟩
  | encLit | encEsc | encHigh => simp [Instr.direction] at h
  | _ => simp [Instr.frame] at hv

/-- A sequence the port holds only in part runs the ticks that read the part, and is then refused. -/
theorem exec_sequence_cut_short {pre cs more : List Byte} {c : Byte}
    {why : Refusal} (hp : s.phase = .opened) (hdir : i.direction = some .hostToDevice)
    (hrest : sequenceRest i s.dstate = pre ++ c :: cs) (hi : s.hostPort.inbound = pre ++ more)
    (hwhy : NotRead c more why) :
    exec i s = andThen (tHostTimes pre.length s) fun _ => .refused why := by
  rw [exec_sequence_of_opened hdir hp, hrest]
  exact hostBytes_append_of_inbound hp hi fun u hu => hostBytes_refused hwhy hu

/-- A sequence that stands for a frame is read up to its last byte, and refused there while the holding
register is not ready. -/
theorem exec_sequence_of_busy {v : Frame} {rest : List Byte}
    (hp : s.phase = .opened) (hd : s.dstate = .idle) (hbusy : s.adapter.txBusy = true)
    (hwf : i.wf = true) (hdir : i.direction = some .hostToDevice) (hv : i.frame = some v)
    (hi : s.hostPort.inbound = encode i ++ rest) : exec i s = .refused .transmitWhileBusy := by
  obtain ⟨pre, b, he, hlast⟩ := encode_transmits hwf hdir hv
  rw [he, List.append_assoc] at hi
  obtain ⟨u, hu, hud, hubusy, hui⟩ := tHostTimes_of_no_command hp hi
    (by rw [hd]; exact runDecoder_of_encode_eq he)
  rw [hd] at hud
  rw [exec_sequence_of_opened hdir hp, hd, sequenceRest_idle hdir, he,
    hostBytes_append_of_inbound hp hi fun _ _ => rfl, hu, andThen_next, hostBytes,
    expectByte_of_head hui, hostByte_of_busy (hubusy.trans hbusy) (by rw [hud]; exact hlast),
    andThen_refused]

end

/-! ## The obligations -/

/-- Settles O55: each operation the outside can call keeps the invariant. -/
theorem stepKeepsDecoderInvariant : Obligations.StepKeepsDecoderInvariant :=
  fun _ _ h hstep => step_keeps_decoderInv h hstep

/-- Settles O56: each operation the outside can call keeps the invariant. -/
theorem stepKeepsOutboundInvariant : Obligations.StepKeepsOutboundInvariant :=
  fun _ _ h hstep => step_keeps_outboundInv h hstep

/-- Settles O57: each operation the outside can call keeps the invariant. -/
theorem stepKeepsPeripheralInvariant : Obligations.StepKeepsPeripheralInvariant :=
  fun _ _ h hstep => step_keeps_peripheralInv h hstep

/-- Settles O44: the bounds hold of the calls of each branch, and the queries before them move nothing. -/
theorem tickMovesOneUnit : Obligations.TickMovesOneUnit := by
  intro s t m ops cs hnext hstep htrace
  obtain ⟨qs, hqtrace, hq⟩ := (poll_polledFrom m ops s).queries
  obtain ⟨ds, hdtrace, hds⟩ := (step_tick_does hnext hstep).movesOneUnit
  rw [htrace, hqtrace, List.append_assoc] at hdtrace
  obtain rfl := List.append_cancel_left hdtrace
  exact hds.after_queries hq

/-- Settles O48: the transmit is made in `T.HOST`, and is none of the three queries that led there. -/
theorem transmitOnlyWhenFreeAndTalking : Obligations.TransmitOnlyWhenFreeAndTalking := by
  intro s t m ops before after f hnext hstep htrace
  obtain ⟨e, _, hcalls⟩ := step_tick_cases hnext hstep htrace
  obtain ⟨htalk, n, rest, hfront⟩ := hcalls.host_of_transmit (f := f) (by simp)
  exact ⟨mem_of_append_eq hfront.symm (by simp) (by simp), htalk⟩

/-- Settles O49: the release is made in `T.REL`, whose environment has answered that the frame is gone. -/
theorem releaseOnlyAfterFrameHasLeft : Obligations.ReleaseOnlyAfterFrameHasLeft := by
  intro s t m ops cs hnext hstep htrace hlisten
  obtain ⟨e, hframe, hcalls⟩ := step_tick_cases hnext hstep htrace
  obtain ⟨hcomplete, hline⟩ := hcalls.rel_of_enterListen hlisten
  rw [hline]
  exact ⟨isDraining_of_complete hcomplete,
    fun hup f hf => hframe.adapter.left_of_complete hup hf hcomplete⟩

/-- Settles O51: by induction on the moves; what an arrival does to the place, by evaluation. -/
theorem waitingFrameIsNotWithdrawn : Obligations.WaitingFrameIsNotWithdrawn := by
  intro s ms v w
  refine ⟨envMoves_waiting ms, fun hw => ⟨rfl, ?_, hw, ?_⟩, fun hnone => ⟨rfl, ?_⟩⟩
  · simp [envMove, adapterAfterMove, hw]
  · simp [envMove, adapterAfterMove, hw]
  · simp [envMove, adapterAfterMove, hnone]

/-- Settles O52: by induction on the moves, the line still holds the frame. -/
theorem drainingFrameIsNotComplete : Obligations.DrainingFrameIsNotComplete := by
  intro s ms f hup hline hms
  rw [txComplete, envMoves_draining hup hline hms]
  rfl

/-- Settles O35: the branches by evaluation; a sequence the port does not hold by where the port runs
short or goes wrong, which from `IDLE` comes before anything is sent. -/
theorem contractBreakingCallsAreRefused : Obligations.ContractBreakingCallsAreRefused := by
  intro s b rest hp
  refine ⟨fun hrx => ?_, fun hi => ⟨?_, fun i hdir => ?_⟩, fun i c cs hdir hrest hi hne => ?_,
    fun i pre cs more c why hdir hrest hi hwhy => ?_, fun hi hbusy ⟨f, hf⟩ => ?_,
    fun i v hd hbusy hwf hdir hv hi => exec_sequence_of_busy hp hd hbusy hwf hdir hv hi⟩
  · simp [exec, execTRx, whenOpen_opened hp, hrx]
  · simp [exec, execTHost, whenOpen_opened hp, hi]
  · obtain ⟨c, cs, hrest⟩ := sequenceRest_cons hdir s.dstate
    exact exec_sequence_cut_short (pre := []) hp hdir hrest hi (.inl ⟨rfl, rfl⟩)
  · exact exec_sequence_cut_short (pre := []) hp hdir hrest hi (.inr ⟨b, rest, rfl, hne, rfl⟩)
  · have hcut := exec_sequence_cut_short hp hdir hrest hi hwhy
    refine ⟨hcut, fun hd => ?_⟩
    rw [hd, sequenceRest_idle hdir] at hrest
    obtain ⟨u, hu, _⟩ := tHostTimes_of_no_command hp hi
      (by rw [hd]; exact runDecoder_of_encode_eq hrest)
    rw [hcut, hu, andThen_next]
  · rw [exec_tHost hp hi, hostByte_of_busy hbusy hf]

end Sys2Proof.Machine

/-!
SUPPORT. The proofs of the family 30_encoding.md. The decoder has one rule per production of the grammar;
they make `decode` and `encode` inverse to each other (`decode_eq_ok_iff`), and what is said of streams, of
the opcode table and of table words follows from that. A row of the opcode table has one of four shapes,
each with a lemma on the byte strings it covers.
-/

namespace Sys2Proof.Machine

section

variable {i : Instr} {dir : Direction} {b c : Byte} {bs rest : List Byte}

/-! ## The operands (R87, R92, R133, R151) -/

theorem isBaudSelect_iff : isBaudSelect c = true ↔ 0x10 ≤ c.toNat ∧ c.toNat ≤ 0x19 := by
  simp [isBaudSelect, Config.baudBase, Config.baudCount, Nat.lt_succ_iff]

/-- An illegal control byte is what the other three classes leave over. -/
theorem isIllegalControl_iff :
    isIllegalControl c = true ↔ c ≠ 0x01#8 ∧ c ≠ 0xFF#8 ∧ baudOfControl c = none := by
  simp [isIllegalControl, Config.high, Config.esc, baudOfControl_eq_none_iff, and_assoc]

theorem lowNibble_toNat (c : Byte) : (c &&& 0x0F#8).toNat = c.toNat % 16 :=
  Nat.and_two_pow_sub_one_eq_mod c.toNat 4

theorem highNibble_eq_one_iff : c >>> 4 = 0x01#8 ↔ c.toNat / 16 = 1 := by
  rw [← BitVec.toNat_inj, BitVec.toNat_ushiftRight, Nat.shiftRight_eq_div_pow]
  rfl

theorem data_wf_iff : (Instr.data b).wf = true ↔ b ≠ 0xFF#8 := bne_iff_ne

theorem encLit_wf_iff : (Instr.encLit b).wf = true ↔ b ≠ 0xFF#8 := bne_iff_ne

/-! ## One rule per production of the grammar (R84, R85, R89, R90) -/

theorem decode_host_literal (h : b ≠ 0xFF#8) :
    decode .hostToDevice (b :: rest) = .ok (.data b, rest) := by simp [decode, h]

theorem decode_device_literal (h : b ≠ 0xFF#8) :
    decode .deviceToHost (b :: rest) = .ok (.encLit b, rest) := by simp [decode, h]

theorem decode_host_escape :
    decode .hostToDevice (0xFF#8 :: c :: rest) = decodeControl c rest := rfl

theorem decode_device_escape :
    decode .deviceToHost (0xFF#8 :: c :: rest) = decodeProduction c rest := rfl

/-- A control byte that is neither `HIGH` nor `ESC`. -/
theorem decodeControl_other (hhigh : c ≠ 0x01#8) (hesc : c ≠ 0xFF#8) :
    decodeControl c rest = .ok ((baudOfControl c).getD (.illegal c), rest) := by
  simp only [decodeControl, hhigh, hesc, if_false]
  cases baudOfControl c <;> rfl

theorem decodeControl_illegal (h : isIllegalControl c = true) :
    decodeControl c rest = .ok (.illegal c, rest) := by
  obtain ⟨hhigh, hesc, hbaud⟩ := isIllegalControl_iff.mp h
  rw [decodeControl_other hhigh hesc, hbaud]
  rfl

/-! ## Decoding and encoding are inverse -/

/-- Every well-formed instruction that travels is read back from its bytes. -/
theorem decode_encode (hwf : i.wf = true) (hdir : i.direction = some dir) :
    decode dir (encode i ++ rest) = .ok (i, rest) := by
  cases i with
  | data dd =>
    obtain rfl := Option.some.inj hdir
    exact decode_host_literal (data_wf_iff.mp hwf)
  | encLit dd =>
    obtain rfl := Option.some.inj hdir
    exact decode_device_literal (encLit_wf_iff.mp hwf)
  | illegal cc =>
    obtain rfl := Option.some.inj hdir
    exact decodeControl_illegal hwf
  | tRx | tBusy | tHost | tRel | tIdle | openBridge | closeBridge => cases hdir
  | _ =>
    obtain rfl := Option.some.inj hdir
    rfl

/-- What is read after an escape code, host to device. -/
theorem decodeControl_ok (h : decodeControl c bs = .ok (i, rest)) :
    i.wf = true ∧ i.direction = some .hostToDevice ∧ 0xFF#8 :: c :: bs = encode i ++ rest := by
  unfold decodeControl at h
  split at h
  case isTrue hhigh =>
    subst hhigh
    cases bs with
    | nil => cases h
    | cons dd bs => cases h; exact ⟨rfl, rfl, rfl⟩
  case isFalse hhigh =>
    split at h
    case isTrue hesc => subst hesc; cases h; exact ⟨rfl, rfl, rfl⟩
    case isFalse hesc =>
      split at h
      case h_1 j hbaud =>
        cases h
        obtain ⟨henc, hdir, hwf⟩ := baudOfControl_encode c i hbaud
        exact ⟨hwf, hdir, by rw [henc]; rfl⟩
      case h_2 hbaud =>
        cases h
        exact ⟨isIllegalControl_iff.mpr ⟨hhigh, hesc, hbaud⟩, rfl, rfl⟩

/-- What is read after an escape code, device to host. -/
theorem decodeProduction_ok (h : decodeProduction c bs = .ok (i, rest)) :
    i.wf = true ∧ i.direction = some .deviceToHost ∧ 0xFF#8 :: c :: bs = encode i ++ rest := by
  unfold decodeProduction at h
  split at h
  case isTrue hhigh =>
    subst hhigh
    cases bs with
    | nil => cases h
    | cons dd bs => cases h; exact ⟨rfl, rfl, rfl⟩
  case isFalse =>
    split at h
    case isTrue hesc => subst hesc; cases h; exact ⟨rfl, rfl, rfl⟩
    case isFalse => cases h

/-- Decoding reads off the one well-formed instruction of the direction whose bytes stand first. -/
theorem decode_eq_ok_iff :
    decode dir bs = .ok (i, rest) ↔
      i.wf = true ∧ i.direction = some dir ∧ bs = encode i ++ rest := by
  refine ⟨fun h => ?_, fun ⟨hwf, hdir, hbs⟩ => hbs ▸ decode_encode hwf hdir⟩
  cases bs with
  | nil => cases h
  | cons b bs =>
    by_cases hesc : b = 0xFF#8
    · subst hesc
      cases bs with
      | nil => cases h
      | cons c bs =>
        cases dir with
        | hostToDevice => exact decodeControl_ok h
        | deviceToHost => exact decodeProduction_ok h
    · cases dir with
      | hostToDevice =>
        rw [decode_host_literal hesc] at h
        cases h
        exact ⟨data_wf_iff.mpr hesc, rfl, rfl⟩
      | deviceToHost =>
        rw [decode_device_literal hesc] at h
        cases h
        exact ⟨encLit_wf_iff.mpr hesc, rfl, rfl⟩

/-! ## Streams (R84, R85) -/

/-- The split covers the stream. -/
theorem assemble_decodeStream (dir : Direction) (n : Nat) (bs : List Byte) :
    assemble (decodeStream dir n bs).1 ++ (decodeStream dir n bs).2 = bs := by
  fun_induction decodeStream dir n bs with
  | case1 bs => rfl
  | case2 n bs i rest h split ih =>
    obtain ⟨_, _, rfl⟩ := decode_eq_ok_iff.mp h
    simpa [assemble, split] using ih
  | case3 n bs e h => rfl

/-- Every sequence of the split is well-formed and of the direction. -/
theorem decodeStream_wf (dir : Direction) (n : Nat) (bs : List Byte) :
    ∀ i ∈ (decodeStream dir n bs).1, i.wf = true ∧ i.direction = some dir := by
  fun_induction decodeStream dir n bs with
  | case1 bs => simp
  | case2 n bs i rest h split ih =>
    obtain ⟨hwf, hdir, _⟩ := decode_eq_ok_iff.mp h
    exact List.forall_mem_cons.mpr ⟨⟨hwf, hdir⟩, ih⟩
  | case3 n bs e h => simp

/-- With one sequence allowed for each byte, reading goes on until no complete sequence follows. -/
theorem decodeStream_exhausts {n : Nat} (hn : bs.length ≤ n) :
    ∃ e, decode dir (decodeStream dir n bs).2 = .error e := by
  fun_induction decodeStream dir n bs with
  | case1 bs =>
    obtain rfl := List.length_eq_zero_iff.mp (Nat.le_zero.mp hn)
    exact ⟨_, rfl⟩
  | case2 n bs i rest h split ih =>
    obtain ⟨_, hdir, rfl⟩ := decode_eq_ok_iff.mp h
    have hpos := encode_length_pos hdir
    exact ih (by rw [List.length_append] at hn; omega)
  | case3 n bs e h => exact ⟨e, h⟩

/-- The bytes of a program of one direction split into the program, with no tail. -/
theorem decodeStream_assemble {program : List Instr} {n : Nat}
    (hp : ∀ i ∈ program, i.wf = true ∧ i.direction = some dir)
    (hn : (assemble program).length ≤ n) :
    decodeStream dir n (assemble program) = (program, []) := by
  induction program generalizing n with
  | nil => cases n <;> rfl
  | cons i program ih =>
    obtain ⟨⟨hwf, hdir⟩, hp⟩ := List.forall_mem_cons.mp hp
    have hcons : assemble (i :: program) = encode i ++ assemble program := List.flatMap_cons
    have hpos := encode_length_pos hdir
    rw [hcons, List.length_append] at hn
    cases n with
    | zero => omega
    | succ n => simp only [hcons, decodeStream, decode_encode hwf hdir, ih (n := n) hp (by omega)]

/-! ## Frame values as instructions (R86, R91) -/

/-- A frame value is put together again from its two fields. -/
theorem frame_of_fields :
    ∀ v : Frame, (if sideBit v then highFrame (dataBits v) else plainFrame (dataBits v)) = v := by
  decide

/-- A frame value has the side-channel bit set, or is the escape code, or is another plain byte. -/
theorem frame_cases (v : Frame) :
    (∃ dd, v = highFrame dd) ∨ v = 0x0FF#9 ∨ ∃ dd, dd ≠ 0xFF#8 ∧ v = plainFrame dd := by
  have hv := frame_of_fields v
  split at hv
  · exact .inl ⟨_, hv.symm⟩
  · by_cases hesc : dataBits v = 0xFF#8
    · exact .inr (.inl (by rw [← hv, hesc]; rfl))
    · exact .inr (.inr ⟨_, hesc, hv.symm⟩)

/-- What the host sends, by the fields of the frame value. -/
theorem sendSequence_eq (v : Frame) :
    sendSequence v = if sideBit v then .high (dataBits v)
      else if dataBits v = 0xFF#8 then .dataff else .data (dataBits v) := rfl

/-- What the device writes, by the fields of the frame value. -/
theorem productionOf_eq (v : Frame) :
    productionOf v = if sideBit v then .encHigh (dataBits v)
      else if dataBits v = 0xFF#8 then .encEsc else .encLit (dataBits v) := rfl

theorem sendSequence_highFrame (dd : Byte) : sendSequence (highFrame dd) = .high dd := by
  simp [sendSequence_eq]

theorem sendSequence_plainFrame {dd : Byte} (h : dd ≠ 0xFF#8) :
    sendSequence (plainFrame dd) = .data dd := by simp [sendSequence_eq, h]

theorem productionOf_highFrame (dd : Byte) : productionOf (highFrame dd) = .encHigh dd := by
  simp [productionOf_eq]

theorem productionOf_plainFrame {dd : Byte} (h : dd ≠ 0xFF#8) :
    productionOf (plainFrame dd) = .encLit dd := by simp [productionOf_eq, h]

theorem encodeFrame_highFrame (dd : Byte) : encodeFrame (highFrame dd) = [0xFF#8, 0x01#8, dd] := by
  simp [encodeFrame]

theorem encodeFrame_plainFrame {dd : Byte} (h : dd ≠ 0xFF#8) :
    encodeFrame (plainFrame dd) = [dd] := by simp [encodeFrame, h]

/-- The host's sequence for a frame value. -/
theorem sendSequence_spec (v : Frame) :
    (sendSequence v).wf = true ∧ (sendSequence v).direction = some .hostToDevice ∧
      (sendSequence v).frame = some v ∧ encode (sendSequence v) = encodeFrame v := by
  rcases frame_cases v with ⟨dd, rfl⟩ | rfl | ⟨dd, hdd, rfl⟩
  · rw [sendSequence_highFrame, encodeFrame_highFrame]
    exact ⟨rfl, rfl, rfl, rfl⟩
  · exact ⟨rfl, rfl, rfl, rfl⟩
  · rw [sendSequence_plainFrame hdd, encodeFrame_plainFrame hdd]
    exact ⟨data_wf_iff.mpr hdd, rfl, rfl, rfl⟩

theorem productionOf_frame (v : Frame) : (productionOf v).frame = some v := by
  rcases frame_cases v with ⟨dd, rfl⟩ | rfl | ⟨dd, hdd, rfl⟩
  · rw [productionOf_highFrame]; rfl
  · rfl
  · rw [productionOf_plainFrame hdd]; rfl

/-- Host to device, a frame value has one sequence. -/
theorem eq_sendSequence_of_frame {v : Frame} (hwf : i.wf = true) (hv : i.frame = some v)
    (hdir : i.direction = some .hostToDevice) : i = sendSequence v := by
  cases i with
  | data dd =>
    obtain rfl := Option.some.inj hv
    exact (sendSequence_plainFrame (data_wf_iff.mp hwf)).symm
  | dataff =>
    obtain rfl := Option.some.inj hv
    rfl
  | high dd =>
    obtain rfl := Option.some.inj hv
    exact (sendSequence_highFrame dd).symm
  | encLit | encEsc | encHigh => simp [Instr.direction] at hdir
  | _ => simp [Instr.frame] at hv

/-- Device to host, a frame value has one production. -/
theorem eq_productionOf_of_frame {v : Frame} (hwf : i.wf = true) (hv : i.frame = some v)
    (hdir : i.direction = some .deviceToHost) : i = productionOf v := by
  cases i with
  | encLit dd =>
    obtain rfl := Option.some.inj hv
    exact (productionOf_plainFrame (encLit_wf_iff.mp hwf)).symm
  | encEsc =>
    obtain rfl := Option.some.inj hv
    rfl
  | encHigh dd =>
    obtain rfl := Option.some.inj hv
    exact (productionOf_highFrame dd).symm
  | data | dataff | high => simp [Instr.direction] at hdir
  | _ => simp [Instr.frame] at hv

/-! ## The opcode table: the byte strings a row of each shape covers (R95) -/

theorem matchesMasked_cons {v m : Byte} {vs ms : List Byte} :
    matchesMasked (v :: vs) (m :: ms) bs = true ↔
      ∃ b bs', bs = b :: bs' ∧ b &&& m = v ∧ matchesMasked vs ms bs' = true := by
  cases bs <;> simp [matchesMasked]

theorem matchesMasked_nil : matchesMasked [] [] bs = true ↔ bs = [] := by
  cases bs <;> simp [matchesMasked]

/-- A pair whose mask has every bit set matches its value alone. -/
theorem matchesMasked_full {value mask : List Byte}
    (hmask : mask = List.replicate value.length 0xFF#8) :
    matchesMasked value mask bs = decide (bs = value) := by
  subst hmask
  rw [Bool.eq_iff_iff, decide_eq_true_iff]
  induction value generalizing bs with
  | nil => exact matchesMasked_nil
  | cons v vs ih => simp [List.replicate_succ, matchesMasked_cons, ih, and_fullMask]

variable {name : String}

theorem covers_iff {row : TableRow} :
    row.covers bs = true ↔
      matchesMasked row.value row.mask bs = true ∧ ∀ e ∈ row.except, e.covers bs = false := by
  simp [TableRow.covers]

/-- A row without an operand. -/
theorem covers_fixed {value mask : List Byte} (hmask : mask = List.replicate value.length 0xFF#8) :
    TableRow.covers ⟨name, dir, value, mask, []⟩ bs = true ↔ bs = value := by
  simp [covers_iff, matchesMasked_full hmask]

/-- A carved-out entry without an operand. -/
theorem pattern_covers {value mask : List Byte} (hmask : mask = List.replicate value.length 0xFF#8) :
    (Exclusion.pattern value mask).covers bs = decide (bs = value) :=
  matchesMasked_full hmask

/-- The carved-out range of the row `ILLEGAL` is the baud-select codes. -/
theorem byteRange_covers :
    (Exclusion.byteRange 1 0x10#8 0x19#8).covers [b, c] = isBaudSelect c := by
  rw [Bool.eq_iff_iff, isBaudSelect_iff]
  simp [Exclusion.covers]

/-- The rows `DATA` and `ENC.LIT`. -/
theorem covers_literal :
    TableRow.covers ⟨name, dir, [0x00#8], [0x00#8], [.pattern [0xFF#8] [0xFF#8]]⟩ bs = true ↔
      ∃ dd, dd ≠ 0xFF#8 ∧ bs = [dd] := by
  have hexcept : (Exclusion.pattern [0xFF#8] [0xFF#8]).covers bs = decide (bs = [0xFF#8]) :=
    pattern_covers rfl
  simp only [covers_iff, List.forall_mem_singleton, hexcept, matchesMasked_cons, matchesMasked_nil]
  constructor
  · rintro ⟨⟨dd, _, rfl, _, rfl⟩, hne⟩
    exact ⟨dd, by simpa using hne, rfl⟩
  · rintro ⟨dd, hne, rfl⟩
    simpa using hne

/-- The rows `HIGH` and `ENC.HIGH`. -/
theorem covers_high :
    TableRow.covers ⟨name, dir, [0xFF#8, 0x01#8, 0x00#8], [0xFF#8, 0xFF#8, 0x00#8], []⟩ bs = true ↔
      ∃ dd, bs = [0xFF#8, 0x01#8, dd] := by
  simp [covers_iff, matchesMasked_cons, matchesMasked_nil, and_fullMask]

/-- What is carved out of the row `ILLEGAL`: `HIGH`, the baud-select codes and `ESC`. -/
def illegalExclusions : List Exclusion :=
  [.pattern [0xFF#8, 0x01#8] [0xFF#8, 0xFF#8], .byteRange 1 0x10#8 0x19#8,
   .pattern [0xFF#8, 0xFF#8] [0xFF#8, 0xFF#8]]

/-- It leaves the illegal control bytes. -/
theorem illegalExclusions_cover_iff :
    (∀ e ∈ illegalExclusions, e.covers [0xFF#8, c] = false) ↔ isIllegalControl c = true := by
  simp [illegalExclusions, pattern_covers, byteRange_covers, isIllegalControl, and_assoc, and_comm]

/-- The row `ILLEGAL`. -/
theorem covers_illegal :
    TableRow.covers ⟨name, dir, [0xFF#8, 0x00#8], [0xFF#8, 0x00#8], illegalExclusions⟩ bs = true ↔
      ∃ cc, isIllegalControl cc = true ∧ bs = [0xFF#8, cc] := by
  have hmatch : matchesMasked [0xFF#8, 0x00#8] [0xFF#8, 0x00#8] bs = true ↔
      ∃ cc, bs = [0xFF#8, cc] := by
    simp [matchesMasked_cons, matchesMasked_nil, and_fullMask]
  rw [covers_iff, hmatch]
  constructor
  · rintro ⟨⟨cc, rfl⟩, hexcept⟩
    exact ⟨cc, illegalExclusions_cover_iff.mp hexcept, rfl⟩
  · rintro ⟨cc, hcc, rfl⟩
    exact ⟨⟨cc, rfl⟩, illegalExclusions_cover_iff.mpr hcc⟩

/-! ## The opcode table: its rows and the instructions (R95) -/

/-- What the row covers decodes, in its direction, to the instruction of its name. -/
def RowDecodes (row : TableRow) : Prop :=
  ∀ bs, row.covers bs = true →
    ∃ i, decode row.direction bs = .ok (i, []) ∧ i.mnemonic = row.mnemonic

theorem rowDecodes_fixed {value : List Byte} (i : Instr) (h : decode dir value = .ok (i, [])) :
    RowDecodes ⟨i.mnemonic, dir, value, List.replicate value.length 0xFF#8, []⟩ :=
  fun _ hcovers => ⟨i, (covers_fixed rfl).mp hcovers ▸ h, rfl⟩

/-- By the shape of the row, in the order of the table. -/
theorem encodedRows_decode : ∀ row ∈ encodedRows, RowDecodes row := by
  simp only [encodedRows, List.forall_mem_cons]
  refine ⟨?data, rowDecodes_fixed .dataff rfl, ?high, rowDecodes_fixed .baud0 rfl,
    rowDecodes_fixed .baud1 rfl, rowDecodes_fixed .baud2 rfl, rowDecodes_fixed .baud3 rfl,
    rowDecodes_fixed .baud4 rfl, rowDecodes_fixed .baud5 rfl, rowDecodes_fixed .baud6 rfl,
    rowDecodes_fixed .baud7 rfl, rowDecodes_fixed .baud8 rfl, rowDecodes_fixed .baud9 rfl,
    ?illegal, ?encLit, rowDecodes_fixed .encEsc rfl, ?encHigh, List.forall_mem_nil _⟩
  case data =>
    intro bs h
    obtain ⟨dd, hdd, rfl⟩ := covers_literal.mp h
    exact ⟨_, decode_host_literal hdd, rfl⟩
  case high =>
    intro bs h
    obtain ⟨dd, rfl⟩ := covers_high.mp h
    exact ⟨_, rfl, rfl⟩
  case illegal =>
    intro bs h
    obtain ⟨cc, hcc, rfl⟩ := covers_illegal.mp h
    exact ⟨_, decodeControl_illegal hcc, rfl⟩
  case encLit =>
    intro bs h
    obtain ⟨dd, hdd, rfl⟩ := covers_literal.mp h
    exact ⟨_, decode_device_literal hdd, rfl⟩
  case encHigh =>
    intro bs h
    obtain ⟨dd, rfl⟩ := covers_high.mp h
    exact ⟨_, rfl, rfl⟩

/-- A well-formed instruction that travels has a row that covers its bytes. -/
theorem exists_coveringRow (hwf : i.wf = true) (hdir : i.direction = some dir) :
    ∃ row ∈ encodedRows,
      row.direction = dir ∧ row.covers (encode i) = true ∧ row.mnemonic = i.mnemonic := by
  cases i with
  | tRx | tBusy | tHost | tRel | tIdle | openBridge | closeBridge => cases hdir
  | data dd =>
    obtain rfl := Option.some.inj hdir
    exact ⟨encodedRows[0], List.getElem_mem _, rfl,
      covers_literal.mpr ⟨dd, data_wf_iff.mp hwf, rfl⟩, rfl⟩
  | high dd =>
    obtain rfl := Option.some.inj hdir
    exact ⟨encodedRows[2], List.getElem_mem _, rfl, covers_high.mpr ⟨dd, rfl⟩, rfl⟩
  | illegal cc =>
    obtain rfl := Option.some.inj hdir
    exact ⟨encodedRows[13], List.getElem_mem _, rfl, covers_illegal.mpr ⟨cc, hwf, rfl⟩, rfl⟩
  | encLit dd =>
    obtain rfl := Option.some.inj hdir
    exact ⟨encodedRows[14], List.getElem_mem _, rfl,
      covers_literal.mpr ⟨dd, encLit_wf_iff.mp hwf, rfl⟩, rfl⟩
  | encHigh dd =>
    obtain rfl := Option.some.inj hdir
    exact ⟨encodedRows[16], List.getElem_mem _, rfl, covers_high.mpr ⟨dd, rfl⟩, rfl⟩
  | _ =>
    obtain rfl := Option.some.inj hdir
    decide

theorem mem_coveringRows {row : TableRow} :
    row ∈ coveringRows dir bs ↔ row ∈ encodedRows ∧ row.direction = dir ∧ row.covers bs = true := by
  simp [coveringRows]

/-- The rows of the table have different names. -/
theorem encodedRows_names_nodup : (encodedRows.map TableRow.mnemonic).Nodup := by decide

/-- A name of a row that covers the bytes of an instruction is the instruction's name. -/
theorem mem_coveringRows_names (hwf : i.wf = true) (hdir : i.direction = some dir) :
    name ∈ (coveringRows dir (encode i)).map TableRow.mnemonic ↔ name = i.mnemonic := by
  simp only [List.mem_map, mem_coveringRows]
  constructor
  · rintro ⟨row, ⟨hrow, rfl, hcovers⟩, rfl⟩
    obtain ⟨j, hj, hname⟩ := encodedRows_decode row hrow _ hcovers
    have hi := decode_encode (rest := []) hwf hdir
    rw [List.append_nil, hj] at hi
    cases hi
    exact hname.symm
  · rintro rfl
    obtain ⟨row, hrow, hrdir, hcovers, hname⟩ := exists_coveringRow hwf hdir
    exact ⟨row, ⟨hrow, hrdir, hcovers⟩, hname⟩

/-! ## Table words (R95, R156) -/

/-- A table word stands for a sequence where it is a byte string and the sequence reads all of it. -/
theorem decodeTableWord_eq_some_iff {nbits w : Nat} :
    decodeTableWord nbits w = some i ↔
      isByteString nbits w = true ∧ decode .hostToDevice (bytesOfTableWord nbits w) = .ok (i, []) := by
  unfold decodeTableWord
  split
  case isTrue hbytes => split <;> simp_all
  case isFalse hbytes => simp [hbytes]

/-- With no move of the environment, no frame waiting and the transmitter free, a byte in the Host Port
is polled for and found (Table R116). -/
theorem poll_quiet_host {s : State} (hrx : s.adapter.rxWaiting = none)
    (hbusy : s.adapter.txBusy = false) (hi : s.hostPort.inbound = b :: rest) :
    poll ⟨[], [], [], []⟩ s = (.tHost, polled s [.uartRxReady false, .uartTxBusy false,
      .hostAvail (rest.length + 1)]) := by
  simp [poll, pollTxBusy, pollAvail, envMoves, envMovesAfterGuard, rxReady, txBusy, availCount,
    askRxReady, askTxBusy, askAvail, record, polled, hrx, hbusy, hi]

/-- Where a sequence is placed, its last byte is left to read. -/
theorem sequenceRest_placed (i : Instr) :
    sequenceRest i (dstateAfterBytes ((encode i).length - 1)) =
      (encode i).drop ((encode i).length - 1) := by
  cases i <;> rfl

/-- The state in which a placed sequence is run: its tick is called and has polled. -/
def placedStart (i : Instr) (s : State) : State :=
  polled (setPending s.pending (placeSequence i s)) [.uartRxReady false, .uartTxBusy false,
    .hostAvail (s.hostPort.inbound.length + 1)]

/-- The tick of a placed sequence reads the last byte, and so runs the sequence. -/
theorem step_placeSequence (hdir : i.direction = some .hostToDevice) (s : State) :
    ∃ u t, step (placeSequence i s) = exec i u ∧ exec i u = .next t ∧
      u.dstate = (placeSequence i s).dstate ∧ u.talk = s.talk ∧ u.phase = .opened ∧
      u.pending = s.pending ∧ actionTrace u.trace = actionTrace s.trace := by
  obtain ⟨b, hlast⟩ : ∃ b, (encode i).drop ((encode i).length - 1) = [b] :=
    ⟨_, List.drop_length_sub_one (List.ne_nil_of_length_pos (encode_length_pos hdir))⟩
  have hport : (placeSequence i s).hostPort.inbound = b :: s.hostPort.inbound := by
    simp [placeSequence, hlast]
  have hpoll : poll ⟨[], [], [], []⟩ (setPending s.pending (placeSequence i s)) =
      (.tHost, placedStart i s) := poll_quiet_host rfl rfl hport
  have hnext : (placeSequence i s).pending = .tick ⟨[], [], [], []⟩ :: s.pending := rfl
  have hrun := stepRunsDecodedSequence (placeSequence i s) _ _ i b s.hostPort.inbound hnext hdir
    (by rw [hpoll]) ((sequenceRest_placed i).trans hlast) (by rw [hpoll]; exact hport)
  have hstep := step_of_tick hnext
  rw [hpoll] at hrun hstep
  have hread : exec .tHost (placedStart i s) = .next (afterHostByte b (placedStart i s)) :=
    (exec_tHost (s := placedStart i s) rfl hport).trans (hostByte_of_free rfl)
  refine ⟨placedStart i s, _, hrun, hrun.symm.trans (hstep.trans hread), rfl, rfl, rfl, rfl, ?_⟩
  rw [placedStart, polled, actionTrace_append]
  exact List.append_nil _

end

/-! ## The obligations -/

/-- Settles O1: by the instruction, each by the rule of its production. -/
theorem decodeGivesBackEncodedInstruction : Obligations.DecodeGivesBackEncodedInstruction :=
  fun _ _ _ hwf hdir => decode_encode hwf hdir

/-- Settles O2: along the branches of the decoder. -/
theorem encodeGivesBackDecodedBytes : Obligations.EncodeGivesBackDecodedBytes :=
  fun _ _ _ _ h => decode_eq_ok_iff.mp h

/-- Settles O3: the split covers the stream, and stops only where the decoder finds a cut-short tail. -/
theorem hostStreamSplitsIntoSequencesAndTail : Obligations.HostStreamSplitsIntoSequencesAndTail := by
  intro bs
  obtain ⟨_, htail⟩ := decodeStream_exhausts (dir := .hostToDevice) (Nat.le_refl bs.length)
  exact ⟨(assemble_decodeStream _ _ bs).symm, decodeStream_wf _ _ bs, decode_host_error htail⟩

/-- Settles O4: the bytes written are the program of the productions, assembled. -/
theorem deviceStreamSplitsIntoProductions : Obligations.DeviceStreamSplitsIntoProductions := by
  intro vs
  have hbytes : vs.flatMap encodeFrame = assemble (vs.map productionOf) := by
    simp [assemble, List.flatMap_map, encode_productionOf]
  rw [hbytes]
  exact decodeStream_assemble (List.forall_mem_map.mpr fun v _ => productionOf_wf v) (Nat.le_refl _)

/-- Settles O7: by the shape of the row. -/
theorem tableRowDecodesToItsInstruction : Obligations.TableRowDecodesToItsInstruction :=
  fun row bs hrow hcovers => encodedRows_decode row hrow bs hcovers

/-- Settles O8: the names of the covering rows are different, and each is the instruction's. -/
theorem decodedInstructionHasOneTableRow : Obligations.DecodedInstructionHasOneTableRow := by
  intro dir bs rest i h
  obtain ⟨hwf, hdir, _⟩ := decode_eq_ok_iff.mp h
  have hnodup : ((coveringRows dir (encode i)).map TableRow.mnemonic).Nodup :=
    encodedRows_names_nodup.sublist (List.filter_sublist.map _)
  refine List.perm_singleton.mp ((List.perm_ext_iff_of_nodup hnodup (List.nodup_singleton _)).mpr ?_)
  exact fun name => (mem_coveringRows_names hwf hdir).trans List.mem_singleton.symm

/-- Settles O9: a frame value by its side-channel bit and its data bits, an instruction by its name. -/
theorem frameEncodingIsBijective : Obligations.FrameEncodingIsBijective := by
  refine ⟨fun v => ?_, fun i v hwf hv =>
    ⟨eq_sendSequence_of_frame hwf hv, eq_productionOf_of_frame hwf hv⟩⟩
  obtain ⟨hwf, hdir, hframe, hbytes⟩ := sendSequence_spec v
  obtain ⟨hpwf, hpdir⟩ := productionOf_wf v
  exact ⟨hwf, hdir, hframe, hbytes, hpwf, hpdir, productionOf_frame v, encode_productionOf v⟩

/-- Settles O5: by evaluation of the decoder on the eight words. -/
theorem writtenOutWordsDecode : Obligations.WrittenOutWordsDecode := by
  refine ⟨?_, ?_, ?_, ?_, ?_, rfl, rfl, rfl⟩ <;> exact decodeTableWord_eq_some_iff.mpr ⟨rfl, rfl⟩

/-- Settles O6: `FF` first, which the map asks for last; the other classes in the order of the map. -/
theorem controlByteMap : Obligations.ControlByteMap := by
  intro c dd rest
  by_cases hesc : c = 0xFF#8
  · subst hesc; rfl
  · by_cases hhigh : c = 0x01#8
    · subst hhigh; rfl
    · rw [decode_host_escape, decodeControl_other hhigh hesc]
      fun_cases baudOfControl c <;> simp [*]

/-- Settles O10: the nibbles are the quotient and the remainder by 16. -/
theorem baudSelectOperand : Obligations.BaudSelectOperand := by
  intro c
  have hc := c.isLt
  rw [lowNibble_toNat, highNibble_eq_one_iff]
  refine ⟨by omega, fun hsel => ?_, fun hsel => ?_, fun hill => ?_⟩
  · have hlow : c.toNat % 16 = c.toNat - 0x10 := by omega
    have hindex : baudIndex c = some (c.toNat % 16) := by
      rw [baudIndex, if_pos hsel, lowNibble_toNat]
    have hrate : baudRate c = Config.baudTable[c.toNat - 0x10]? := by
      simp only [baudRate, hindex, hlow]
    have hlength : Config.baudTable.length = 10 := rfl
    refine ⟨hindex, hlow, hrate, ?_⟩
    rw [hrate, List.getElem?_eq_getElem (by omega)]
    rfl
  · have hindex : baudIndex c = none := if_neg hsel
    exact ⟨hindex, by simp only [baudRate, hindex]⟩
  · refine isIllegalControl_iff.mpr ⟨?_, ?_, ?_⟩
    · rintro rfl; simp at hill
    · rintro rfl; simp at hill
    · rw [baudOfControl_eq_none_iff, ← Bool.not_eq_true, isBaudSelect_iff]
      omega

/-- Settles O40: a table word that decodes is a sequence, placed with its last byte to read. -/
theorem placedWordRunsNext : Obligations.PlacedWordRunsNext := by
  intro s nbits w i h
  obtain ⟨_, hdecode⟩ := decodeTableWord_eq_some_iff.mp h
  obtain ⟨_, hdir, _⟩ := decode_eq_ok_iff.mp hdecode
  have hplaced : s.withFetchWord nbits w = placeSequence i s := by
    simp only [State.withFetchWord, placeTableWord, h]
  rw [hplaced]
  exact step_placeSequence hdir s

end Sys2Proof.Machine

/-!
SUPPORT. The proofs of the family 40_tick_dispatch.md. The dispatcher is stated once as the whole of Table
R116 (`poll_eq`), and each branch once as what it answers in an open bridge. A tick that completes is taken
apart by `step_tick_does_from`, which keeps what its answers say of the environment.
-/

namespace Sys2Proof.Machine

section

variable {s s1 s2 s3 s4 t e : State} {i : Instr} {m : TickMoves} {ops : List Op} {b : Byte}
  {rest : List Byte} {v : Frame}

/-! ## The dispatcher (R110, Table R116) -/

@[simp] theorem txBusy_polled (s : State) (qs : List Call) : txBusy (polled s qs) = txBusy s := rfl
@[simp] theorem availCount_polled (s : State) (qs : List Call) :
    availCount (polled s qs) = availCount s := rfl
@[simp] theorem txComplete_polled (s : State) (qs : List Call) :
    txComplete (polled s qs) = txComplete s := rfl

theorem record_eq_polled (c : Call) (s : State) : record c s = polled s [c] := rfl

@[simp] theorem polled_polled (s : State) (qs qs' : List Call) :
    polled (polled s qs) qs' = polled s (qs ++ qs') := by
  simp [polled]

/-- The environment does not see the queries made. -/
@[simp] theorem envMoves_polled (ms : List EnvMove) (s : State) (qs : List Call) :
    envMoves ms (polled s qs) = polled (envMoves ms s) qs := by
  induction ms generalizing s with
  | nil => rfl
  | cons mv ms ih => exact ih (envMove mv s)

@[simp] theorem envMovesAfterGuard_polled (ms : List EnvMove) (s : State) (qs : List Call) :
    envMovesAfterGuard ms (polled s qs) = polled (envMovesAfterGuard ms s) qs :=
  envMoves_polled _ s qs

/-- The branch selected and the state it starts in: the environment as the last query made found it (`s1` to
`s4`), with the queries in the trace. -/
theorem poll_eq (h1 : s1 = envMoves m.beforeRxReady s) (h2 : s2 = envMoves m.beforeTxBusy s1)
    (h3 : s3 = envMovesAfterGuard m.beforeAvail s2)
    (h4 : s4 = envMovesAfterGuard m.beforeTxComplete s3) :
    poll m s =
      if rxReady s1 then (.tRx, polled s1 [.uartRxReady true])
      else if txBusy s2 then (.tBusy, polled s2 [.uartRxReady false, .uartTxBusy true])
      else if 1 ≤ availCount s3 then
        (.tHost, polled s3 [.uartRxReady false, .uartTxBusy false, .hostAvail (availCount s3)])
      else if txComplete s4 then
        (.tRel, polled s4 [.uartRxReady false, .uartTxBusy false, .hostAvail 0, .uartTxComplete true])
      else (.tIdle, polled s4
        [.uartRxReady false, .uartTxBusy false, .hostAvail 0, .uartTxComplete false]) := by
  simp only [poll, pollTxBusy, pollAvail, pollTxComplete, askRxReady, askTxBusy, askAvail,
    askTxComplete, record_eq_polled, polled_polled, envMoves_polled, envMovesAfterGuard_polled,
    txBusy_polled, availCount_polled, txComplete_polled, ← h1, ← h2, ← h3, ← h4]
  split_ifs <;> simp_all

/-- So the answers alone determine the row of Table R116. -/
theorem poll_row (h1 : s1 = envMoves m.beforeRxReady s) (h2 : s2 = envMoves m.beforeTxBusy s1)
    (h3 : s3 = envMovesAfterGuard m.beforeAvail s2)
    (h4 : s4 = envMovesAfterGuard m.beforeTxComplete s3) :
    (poll m s).1 = selectedBranch (rxReady s1) (txBusy s2) (availCount s3) (txComplete s4) ∧
      (poll m s).2.trace =
        s.trace ++ queriesMade (rxReady s1) (txBusy s2) (availCount s3) (txComplete s4) := by
  have f1 : EnvFrame s s1 := h1 ▸ envMoves_frame _ s
  have f2 : EnvFrame s s2 := f1.trans (h2 ▸ envMoves_frame _ s1)
  have f3 : EnvFrame s s3 := f2.trans (h3 ▸ envMoves_frame _ s2)
  have f4 : EnvFrame s s4 := f3.trans (h4 ▸ envMoves_frame _ s3)
  rw [poll_eq h1 h2 h3 h4]
  cases rxReady s1 with
  | true => exact ⟨rfl, congrArg (· ++ _) f1.trace⟩
  | false =>
    cases txBusy s2 with
    | true => exact ⟨rfl, congrArg (· ++ _) f2.trace⟩
    | false =>
      cases availCount s3 with
      | succ n => exact ⟨rfl, congrArg (· ++ _) f3.trace⟩
      | zero => cases txComplete s4 <;> exact ⟨rfl, congrArg (· ++ _) f4.trace⟩

/-- The table for a tick in which the environment does nothing. -/
theorem poll_quiet_eq (s : State) :
    poll ⟨[], [], [], []⟩ s =
      if rxReady s then (.tRx, polled s [.uartRxReady true])
      else if txBusy s then (.tBusy, polled s [.uartRxReady false, .uartTxBusy true])
      else if 1 ≤ availCount s then
        (.tHost, polled s [.uartRxReady false, .uartTxBusy false, .hostAvail (availCount s)])
      else if txComplete s then
        (.tRel, polled s [.uartRxReady false, .uartTxBusy false, .hostAvail 0, .uartTxComplete true])
      else (.tIdle, polled s
        [.uartRxReady false, .uartTxBusy false, .hostAvail 0, .uartTxComplete false]) :=
  poll_eq rfl rfl rfl rfl

/-! ## The branches (R111 to R115) -/

/-- The production of a frame writes its encoding (R130 to R133). -/
theorem exec_productionOf (v : Frame) (s : State) :
    exec (productionOf v) s = whenOpen s (.next (hostWrites (encodeFrame v) s)) := by
  rcases frame_cases v with ⟨dd, rfl⟩ | rfl | ⟨dd, hdd, rfl⟩
  · rw [productionOf_highFrame, encodeFrame_highFrame]; rfl
  · rfl
  · rw [productionOf_plainFrame hdd, encodeFrame_plainFrame hdd]; rfl

theorem exec_tRx (hv : s.adapter.rxWaiting = some v) :
    exec .tRx s = whenOpen s (.next (hostWrites (encodeFrame v) (uartReceive v s))) := by
  simp only [exec, execTRx, hv]

/-- `T.HOST` with a byte to read, by what the decoder makes of the byte (R113, R140). Only a transmit asks
for the holding register. -/
theorem exec_tHost_of_decoderStep {d : DState} {c : Option UartCommand} (hp : s.phase = .opened)
    (hi : s.hostPort.inbound = b :: rest) (hdec : decoderStep s.dstate b = (d, c))
    (hfree : (∃ f, c = some (.transmit f)) → s.adapter.txBusy = false) :
    exec .tHost s = .next { s with
      dstate := d
      talk := true
      adapter := commandAdapter c (seizedAdapter s)
      hostPort := { s.hostPort with inbound := rest }
      trace := s.trace ++ (.hostRead b :: seizeCalls s.talk ++ commandCalls c) } := by
  have hmay : ¬(s.adapter.txBusy = true ∧ ∃ f, (decoderStep s.dstate b).2 = some (.transmit f)) := by
    rw [hdec]
    exact fun ⟨hbusy, hf⟩ => by simp [hfree hf] at hbusy
  rw [exec_tHost hp hi, hostByte_eq, if_neg hmay, afterHostByte, hdec, hi]
  rfl

/-- Where the decoder makes no call, the byte is read and the bus seized. -/
theorem exec_tHost_of_no_command {d : DState} (hp : s.phase = .opened)
    (hi : s.hostPort.inbound = b :: rest) (hdec : decoderStep s.dstate b = (d, none)) :
    exec .tHost s = .next { s with
      dstate := d
      talk := true
      adapter := seizedAdapter s
      hostPort := { s.hostPort with inbound := rest }
      trace := s.trace ++ (.hostRead b :: seizeCalls s.talk) } := by
  simpa [commandAdapter, commandCalls] using exec_tHost_of_decoderStep hp hi hdec (by simp)

/-- In `ESCAPE`, what is neither `HIGH` nor the escape code is a baud-select code or is dropped (R146,
R147). -/
theorem decodeEscape_other (hhigh : b ≠ 0x01#8) (hesc : b ≠ 0xFF#8) :
    decodeEscape b = (.idle, (baudRate b).map .configure) := by
  simp only [decodeEscape, if_neg hhigh, if_neg hesc]
  cases baudRate b <;> rfl

theorem exec_tRel (hp : s.phase = .opened) : exec .tRel s = .next (releaseBus s) :=
  whenOpen_opened hp _

theorem exec_tRel_of_not_talking (hp : s.phase = .opened) (h : s.talk = false) :
    exec .tRel s = .next s := by
  rw [exec_tRel hp, releaseBus, h]

/-- Outside the lifecycle every row of the opcode table but `OPEN` and `CLOSE` is refused (R121, R186). -/
theorem exec_not_opened (hp : s.phase ≠ .opened) (hclose : i ≠ .closeBridge)
    (hopen : ∀ r, i ≠ .openBridge r) : exec i s = .refused .tickOutsideLifecycle := by
  cases i with
  | openBridge r => exact absurd rfl (hopen r)
  | closeBridge => exact absurd rfl hclose
  | _ => exact whenOpen_not_opened hp _

/-! ## A tick from its environment -/

/-- A tick leaves the lifecycle and the operations called next. -/
theorem TickDoes.lifecycle (h : TickDoes e t) : t.phase = e.phase ∧ t.pending = e.pending := by
  rcases h with ⟨_, _, rfl⟩ | rfl | ⟨_, _, _, _, rfl⟩ | ⟨_, rfl⟩ | rfl
  case rel => rw [releaseBus_eq]; exact ⟨rfl, rfl⟩
  all_goals exact ⟨rfl, rfl⟩

/-- In an open bridge a tick completes, by one of the five branches. -/
theorem step_tick_opened (hp : s.phase = .opened) (hnext : s.pending = .tick m :: ops) :
    ∃ e t, EnvFrame (setPending ops s) e ∧ step s = .next t ∧ TickDoes e t := by
  obtain ⟨e, t, hframe, hexec, hdoes, _⟩ := tick_cases (m := m) (s := setPending ops s) hp
  exact ⟨e, t, hframe, (step_of_tick hnext).trans hexec, hdoes⟩

/-- A tick that completes was called in an open bridge. -/
theorem step_tick_does_from (hnext : s.pending = .tick m :: ops) (h : step s = .next t) :
    ∃ e, EnvFrame (setPending ops s) e ∧ TickDoes e t := by
  by_cases hp : s.phase = .opened
  · obtain ⟨e, t', hframe, hstep, hdoes⟩ := step_tick_opened hp hnext
    obtain rfl : t' = t := by simpa using hstep.symm.trans h
    exact ⟨e, hframe, hdoes⟩
  · rw [step_of_tick hnext, poll_exec_not_opened (s := setPending ops s) hp] at h
    simp at h

/-! ## Quiet ticks with nothing to do (R118) -/

/-- No frame waits, and the transmitter is busy, or no host byte is available and a complete line finds
`TALK` clear. -/
def NothingToDo (s : State) : Prop :=
  s.adapter.rxWaiting = none ∧
    (s.adapter.txBusy = true ∨
      (s.hostPort.inbound = [] ∧ (lineComplete s.adapter.line = true → s.talk = false)))

/-- Such a tick makes its queries, and nothing else. -/
theorem step_quiet_of_nothingToDo (hp : s.phase = .opened) (hnext : s.pending = quietTick :: ops)
    (h : NothingToDo s) :
    ∃ qs, step s = .next (polled (setPending ops s) qs) ∧ actionTrace qs = [] := by
  obtain ⟨hrx, hidle⟩ := h
  have hready : rxReady (setPending ops s) = false := by simp [rxReady, hrx]
  rw [step_of_tick hnext, poll_quiet_eq, hready, if_neg Bool.false_ne_true]
  cases hb : txBusy (setPending ops s) with
  | true => exact ⟨_, whenOpen_opened hp _, rfl⟩
  | false =>
    obtain ⟨hin, htalk⟩ := hidle.resolve_left (by simpa [txBusy] using hb)
    have havail : ¬ 1 ≤ availCount (setPending ops s) := by simp [availCount, hin]
    rw [if_neg Bool.false_ne_true, if_neg havail]
    cases hc : txComplete (setPending ops s) with
    | true =>
      rw [if_pos rfl]
      exact ⟨_, exec_tRel_of_not_talking (s := polled _ _) hp (htalk hc), rfl⟩
    | false => exact ⟨_, whenOpen_opened hp _, rfl⟩

end

/-! ## The obligations -/

/-- Settles O15: in an open bridge both write the encoding of the frame, outside it both are refused. -/
theorem receiveBranchRunsProduction : Obligations.ReceiveBranchRunsProduction := by
  intro s v hv
  rw [exec_tRx hv, exec_productionOf]
  rfl

/-- Settles O42: a tick in an open bridge runs one of the five branches, and none of them leaves it. -/
theorem everyTickCompletes : Obligations.EveryTickCompletes := by
  intro s m ops hp hnext
  obtain ⟨e, t, hframe, hstep, hdoes⟩ := step_tick_opened hp hnext
  obtain ⟨hphase, hpending⟩ := hdoes.lifecycle
  exact ⟨t, hstep, hphase.trans (hframe.phase.trans hp), hpending.trans hframe.pending⟩

/-- Settles O43: by the branch, from an environment that has left both registers and the trace as they
were. -/
theorem tickTraceIsOneBranch : Obligations.TickTraceIsOneBranch := by
  intro s t m ops hnext hstep
  obtain ⟨e, hframe, hdoes⟩ := step_tick_does_from hnext hstep
  obtain ⟨hd, ht, htr⟩ : e.dstate = s.dstate ∧ e.talk = s.talk ∧ e.trace = s.trace :=
    ⟨hframe.dstate, hframe.talk, hframe.trace⟩
  rw [← hd, ← ht, ← htr]
  rcases hdoes with ⟨v, _, rfl⟩ | rfl | ⟨b, rest, _, _, rfl⟩ | ⟨_, rfl⟩ | rfl
  · exact .inl ⟨v, rfl, rfl, rfl⟩
  · exact .inr (.inl ⟨rfl, rfl, rfl⟩)
  · exact .inr (.inr (.inl ⟨rest.length + 1, b, by omega, by simp [afterHostByte, polled], rfl, rfl⟩))
  · rw [releaseBus_eq]
    exact .inr (.inr (.inr (.inl ⟨List.append_assoc _ _ _, rfl, rfl⟩)))
  · exact .inr (.inr (.inr (.inr ⟨rfl, rfl, rfl⟩)))

/-- Settles O45: by induction on the number of ticks; each makes its queries and leaves nothing to do. -/
theorem idleTicksChangeNothing : Obligations.IdleTicksChangeNothing := by
  intro n
  induction n with
  | zero =>
    rintro s ops - hnext - -
    obtain rfl : s.pending = ops := hnext
    exact ⟨s, rfl, rfl, rfl⟩
  | succ n ih =>
    intro s ops hp hnext hrx hidle
    obtain ⟨qs, hstep, hqs⟩ := step_quiet_of_nothingToDo hp hnext ⟨hrx, hidle⟩
    obtain ⟨t, hrun, ht, htrace⟩ :=
      ih (polled (setPending (.replicate n quietTick ++ ops) s) qs) ops hp rfl hrx hidle
    refine ⟨t, (run_succ hstep n).trans hrun, ht, htrace.trans ?_⟩
    rw [polled, actionTrace_append, hqs]
    exact List.append_nil _

/-- Settles O14: the read of the frame, then the writes. -/
theorem receiveBranchForwardsFrame : Obligations.ReceiveBranchForwardsFrame := by
  intro s v hp hv
  rw [exec_tRx hv, whenOpen_opened hp, hostWrites_eq]
  simp [uartReceive, record, setAdapter]

/-- Settles O17: by the decoder's two rows for `IDLE`. -/
theorem hostBranchInIdle : Obligations.HostBranchInIdle := by
  intro s b rest hp hd hi
  have hidle : decoderStep s.dstate b = decodeIdle b := congrArg (decoderStep · b) hd
  refine ⟨fun hb => exec_tHost_of_no_command hp hi (hidle.trans (if_pos hb)), fun hb hfree => ?_⟩
  rw [decodeIdle, if_neg hb, ← hd] at hidle
  exact exec_tHost_of_decoderStep hp hi hidle fun _ => hfree

/-- Settles O18: by the decoder's rows for `ESCAPE`; a baud-select code has a rate, any other byte none. -/
theorem hostBranchInEscape : Obligations.HostBranchInEscape := by
  intro s b rest hp hd hi
  have hescape : decoderStep s.dstate b = decodeEscape b := congrArg (decoderStep · b) hd
  obtain ⟨_, hselect, hother, _⟩ := baudSelectOperand b
  refine ⟨fun hb => ?_, fun hb hfree => ?_, fun rate hlo hhi hrate => ?_, fun hhigh hesc hsel => ?_⟩
  · exact exec_tHost_of_no_command hp hi (hescape.trans (if_pos hb))
  · subst hb
    exact exec_tHost_of_decoderStep hp hi hescape fun _ => hfree
  · obtain ⟨_, _, hbaud, _⟩ := hselect ⟨hlo, hhi⟩
    rw [decodeEscape_other (by rintro rfl; simp at hlo) (by rintro rfl; simp at hhi), hbaud,
      hrate] at hescape
    exact exec_tHost_of_decoderStep hp hi hescape (by simp)
  · obtain ⟨_, hbaud⟩ := hother hsel
    rw [decodeEscape_other hhigh hesc, hbaud] at hescape
    exact exec_tHost_of_no_command hp hi hescape

/-- Settles O19: by the decoder's row for `HIGH`. -/
theorem hostBranchInHigh : Obligations.HostBranchInHigh := by
  intro s b rest hp hd hfree hi
  exact exec_tHost_of_decoderStep hp hi (congrArg (decoderStep · b) hd) fun _ => hfree

/-- Settles O30: both branches skip. -/
theorem busyAndIdleBranchesSkip : Obligations.BusyAndIdleBranchesSkip :=
  fun _ hp => ⟨whenOpen_opened hp _, whenOpen_opened hp _⟩

/-- Settles O31: by `TALK`. -/
theorem releaseBranchClearsTalk : Obligations.ReleaseBranchClearsTalk := by
  intro s hp
  refine ⟨fun htalk => ?_, exec_tRel_of_not_talking hp⟩
  simp [exec_tRel hp, releaseBus_eq, htalk, releaseCalls]

/-- Settles O34: by the phase, and for an `OPEN` after a reset by its rate. -/
theorem outsideLifecycleIsRefused : Obligations.OutsideLifecycleIsRefused := by
  intro s i baud
  refine ⟨exec_not_opened, fun hp => ?_, fun hp => ?_, fun hp hrate => ?_⟩
  · cases h : s.phase <;> simp_all [exec, execOpenBridge]
  · cases h : s.phase <;> simp_all [exec, execCloseBridge]
  · simp_all [exec, execOpenBridge, Instr.wf]

/-- Settles O38: by the operation called next. -/
theorem stepRunsSelectedInstruction : Obligations.StepRunsSelectedInstruction := by
  intro s ops
  refine ⟨fun m hnext => step_of_tick hnext, fun baud before found hnext => ?_, fun hnext => ?_,
    fun hnext => ?_⟩
  · simp only [step, select, hnext, settle]
  · simp only [step, select, hnext, settle]
    cases exec .closeBridge (setPending ops s) <;> rfl
  · simp only [step, select, hnext]

/-- Settles O41: the row by the answers; the polling leaves both registers. -/
theorem branchSelectionTable : Obligations.BranchSelectionTable := by
  refine ⟨fun m s s1 s2 s3 s4 h1 h2 h3 h4 => ?_, poll_quiet_eq⟩
  obtain ⟨hbranch, htrace⟩ := poll_row h1 h2 h3 h4
  have hpolled := poll_polledFrom m s.pending s
  exact ⟨hbranch, htrace, hpolled.dstate, hpolled.talk⟩

end Sys2Proof.Machine

/-!
SUPPORT. The proofs of the family 41_uart_to_host_encoder.md. `Encode` is stated once per branch, in the
order of its two tests; the three productions share one fact, what writing a list of bytes answers in an
open bridge.
-/

namespace Sys2Proof.Machine

section

variable {s : State} {v : Frame}

/-! ## The two tests of `Encode` (R130) -/

theorem encodeFrame_of_sideBit (hside : sideBit v = true) :
    encodeFrame v = [0xFF#8, 0x01#8, dataBits v] :=
  if_pos hside

theorem encodeFrame_of_not_sideBit (hside : sideBit v = false) :
    encodeFrame v = if dataBits v = 0xFF#8 then [0xFF#8, dataBits v] else [dataBits v] :=
  if_neg (Bool.eq_false_iff.mp hside)

/-! ## The productions (R131 to R133) -/

/-- In an open bridge a production appends its bytes to the outbound stream and to the trace (R59). -/
theorem whenOpen_hostWrites (hp : s.phase = .opened) (bs : List Byte) :
    whenOpen s (.next (hostWrites bs s)) = .next { s with
      hostPort := { s.hostPort with outbound := s.hostPort.outbound ++ bs }
      trace := s.trace ++ bs.map .hostWrite } := by
  rw [whenOpen_opened hp, hostWrites_eq]

end

/-! ## The obligations -/

/-- Settles O12: by the two tests, the side-channel bit first; it is set in `0x1FF`. -/
theorem encodeTestsSideBitFirst : Obligations.EncodeTestsSideBitFirst := by
  intro v
  refine ⟨encodeFrame_of_sideBit, fun hside hdata => ?_, fun hside hdata => ?_, ?_⟩
  · rw [encodeFrame_of_not_sideBit hside, if_pos hdata, hdata]
  · rw [encodeFrame_of_not_sideBit hside, if_neg hdata]
  · exact encodeFrame_of_sideBit (v := 0x1FF#9) (by decide)

/-- Settles O13: each production writes one list of bytes. -/
theorem productionsWriteTheirBytes : Obligations.ProductionsWriteTheirBytes := by
  intro s dd hp
  exact ⟨whenOpen_hostWrites hp [0xFF#8, 0x01#8, dd], whenOpen_hostWrites hp [0xFF#8, 0xFF#8],
    fun _ => whenOpen_hostWrites hp [dd]⟩

end Sys2Proof.Machine

/-!
SUPPORT. The proofs of the family 42_host_to_uart_decoder.md. A sequence makes its one call, if any, with its
last byte, so reading its bytes from `IDLE` has one closed form (`exec_sequence_from_idle`). Quiet ticks that
read the same bytes end in the same state, with other operations called next and another trace (`scheduled`).
-/

namespace Sys2Proof.Machine

section

variable {s u : State} {i : Instr} {ops : List Op} {b : Byte} {pre rest more : List Byte}
  {d : DState} {c : Option UartCommand}

/-! ## The decoder alone (R143 to R147, R157) -/

/-- The illegal control bytes, with the baud-select codes as a range (R87, R154). -/
theorem isIllegalControl_iff_range :
    isIllegalControl b = true ↔
      b ≠ 0x01#8 ∧ b ≠ 0xFF#8 ∧ ¬(0x10 ≤ b.toNat ∧ b.toNat ≤ 0x19) := by
  rw [isIllegalControl_iff, baudOfControl_eq_none_iff, ← Bool.not_eq_true, isBaudSelect_iff]

/-- In `ESCAPE` a baud-select code configures its row of the table (R146). -/
theorem decodeEscape_baudSelect (h : 0x10 ≤ b.toNat ∧ b.toNat ≤ 0x19) :
    decodeEscape b =
      (.idle, some (.configure (Config.baudTable.getD (b.toNat - 0x10) 0))) := by
  obtain ⟨_, hselect, _, _⟩ := baudSelectOperand b
  obtain ⟨_, _, hbaud, hsome⟩ := hselect h
  obtain ⟨rate, hrate⟩ := Option.isSome_iff_exists.mp hsome
  rw [decodeEscape_other (by rintro rfl; simp at h) (by rintro rfl; simp at h), hrate,
    List.getD_eq_getElem?_getD, ← hbaud, hrate]
  rfl

/-- In `ESCAPE` an illegal control byte is dropped (R147). -/
theorem decodeEscape_illegal (h : isIllegalControl b = true) : decodeEscape b = (.idle, none) := by
  obtain ⟨hhigh, hesc, hsel⟩ := isIllegalControl_iff_range.mp h
  obtain ⟨_, _, hother, _⟩ := baudSelectOperand b
  obtain ⟨_, hrate⟩ := hother hsel
  rw [decodeEscape_other hhigh hesc, hrate]
  rfl

/-- Only the control byte `HIGH` leads from `ESCAPE` elsewhere than to `IDLE`. -/
theorem decodeEscape_fst (hhigh : b ≠ 0x01#8) : (decodeEscape b).1 = .idle := by
  by_cases hesc : b = 0xFF#8
  · subst hesc; rfl
  · rw [decodeEscape_other hhigh hesc]

/-- The decoder gives back the one frame that was encoded (R157). -/
theorem runDecoder_encodeFrame (v : Frame) :
    runDecoder .idle (encodeFrame v) = (.idle, [.transmit v]) := by
  rcases frame_cases v with ⟨dd, rfl⟩ | rfl | ⟨dd, hdd, rfl⟩
  · rw [encodeFrame_highFrame]; rfl
  · rfl
  · rw [encodeFrame_plainFrame hdd]
    simp [runDecoder, decoderStep, decodeIdle, hdd]

/-! ## The ticks of a sequence (R151 to R156) -/

theorem andThen_next_right (o : Host.Outcome State Fault Refusal) : andThen o .next = o := by
  cases o <;> rfl

/-- A sequence the Host Port holds is the ticks that read what is left of it. -/
theorem exec_sequence_eq_tHostTimes (hdir : i.direction = some .hostToDevice)
    (hp : s.phase = .opened) (hi : s.hostPort.inbound = sequenceRest i s.dstate ++ more) :
    exec i s = tHostTimes (sequenceRest i s.dstate).length s := by
  have hread := hostBytes_append_of_inbound (rest := []) (k := .next) hp hi fun _ _ => rfl
  rwa [List.append_nil, andThen_next_right, ← exec_sequence_of_opened hdir hp] at hread

/-- The calls of ticks that read the given bytes: the bus is seized with the first (R113), and the decoder's
call `c` is made with the last. -/
def sequenceCalls (talk : Bool) (c : Option UartCommand) : List Byte → List Call
  | [] => commandCalls c
  | b :: bs => .hostRead b :: seizeCalls talk ++ (bs.map .hostRead ++ commandCalls c)

/-- Once the bus is seized, the prologue calls nothing. -/
theorem sequenceCalls_of_talk (c : Option UartCommand) (bs : List Byte) :
    sequenceCalls true c bs = bs.map .hostRead ++ commandCalls c := by
  cases bs <;> rfl

theorem seizedAdapter_of_talk (h : s.talk = true) : seizedAdapter s = s.adapter := if_pos h

/-- Bytes of which the decoder makes no command before the last are read one tick each; the last makes the
call `c`. -/
theorem tHostTimes_of_last_command (hp : s.phase = .opened)
    (hi : s.hostPort.inbound = pre ++ b :: more) (hpre : (runDecoder s.dstate pre).2 = [])
    (hdec : decoderStep (runDecoder s.dstate pre).1 b = (d, c))
    (hfree : (∃ f, c = some (.transmit f)) → s.adapter.txBusy = false) :
    tHostTimes (pre.length + 1) s = .next { s with
      dstate := d
      talk := true
      adapter := commandAdapter c (seizedAdapter s)
      hostPort := { s.hostPort with inbound := more }
      trace := s.trace ++ sequenceCalls s.talk c (pre ++ [b]) } := by
  induction pre generalizing s with
  | nil =>
    rw [List.length_nil, tHostTimes, exec_tHost_of_decoderStep hp hi hdec hfree]
    rfl
  | cons x pre ih =>
    obtain ⟨hx, hpre⟩ := List.append_eq_nil_iff.mp hpre
    have hread := exec_tHost_of_no_command hp hi (Prod.ext rfl (Option.toList_eq_nil_iff.mp hx))
    rw [List.length_cons, tHostTimes, hread, andThen_next]
    refine Eq.trans (ih hp rfl hpre hdec (by simpa using hfree)) ?_
    simp only [sequenceCalls_of_talk, seizedAdapter_of_talk]
    simp [sequenceCalls]

/-- From `IDLE` a sequence reads its bytes, and makes the call of its last one (R151 to R154, R170). -/
theorem exec_sequence_from_idle (hp : s.phase = .opened) (hd : s.dstate = .idle)
    (hdir : i.direction = some .hostToDevice) (he : encode i = pre ++ [b])
    (hi : s.hostPort.inbound = encode i ++ more)
    (hdec : decoderStep (runDecoder .idle pre).1 b = (.idle, c))
    (hfree : (∃ f, c = some (.transmit f)) → s.adapter.txBusy = false) :
    exec i s = .next { s with
      talk := true
      adapter := commandAdapter c (seizedAdapter s)
      hostPort := { s.hostPort with inbound := more }
      trace := s.trace ++ sequenceCalls s.talk c (encode i) } := by
  have hrest : sequenceRest i s.dstate = encode i := by rw [hd, sequenceRest_idle hdir]
  have hlen : (encode i).length = pre.length + 1 := by simp [he]
  rw [exec_sequence_eq_tHostTimes hdir hp (hrest.symm ▸ hi), hrest, hlen]
  rw [he, List.append_assoc, List.singleton_append] at hi
  rw [← hd] at hdec
  rw [he]
  exact tHostTimes_of_last_command hp hi (by rw [hd]; exact runDecoder_of_encode_eq he) hdec hfree

/-! ## Quiet ticks (R156) -/

/-- `u` with other operations called next and another trace. -/
def scheduled (ops : List Op) (tr : List Call) (u : State) : State :=
  { u with pending := ops, trace := tr }

/-- A byte of which the decoder makes no command leaves the adapter as the prologue does. -/
theorem afterHostByte_adapter_of_no_command (h : (decoderStep u.dstate b).2 = none) :
    (afterHostByte b u).adapter = seizedAdapter u := by
  simp only [afterHostByte, h, commandAdapter]

/-- A quiet tick that finds a byte and the transmitter free reads the byte, and adds nothing but queries to
what the read calls. -/
theorem step_quiet_host {tr : List Call} (hp : u.phase = .opened) (hrx : u.adapter.rxWaiting = none)
    (hbusy : u.adapter.txBusy = false) (hi : u.hostPort.inbound = b :: rest)
    (htr : actionTrace tr = actionTrace u.trace) :
    ∃ tr', step (scheduled (quietTick :: ops) tr u) = .next (scheduled ops tr' (afterHostByte b u)) ∧
      actionTrace tr' = actionTrace (afterHostByte b u).trace := by
  have hstep := step_of_tick (s := scheduled (quietTick :: ops) tr u) rfl
  rw [poll_quiet_host (s := setPending ops (scheduled (quietTick :: ops) tr u)) hrx hbusy hi] at hstep
  refine ⟨_, hstep.trans
    ((exec_tHost (s := polled (scheduled ops tr u) _) hp hi).trans (hostByte_of_free hbusy)), ?_⟩
  have hqueries : actionTrace
      [.uartRxReady false, .uartTxBusy false, .hostAvail (rest.length + 1)] = [] := rfl
  simp only [afterHostByte, polled, scheduled, actionTrace_append, htr, hqueries, List.append_nil]

/-- As many quiet ticks as there are bytes, the last of which alone may make a command, end where the reads
end, but for what is called next and the queries in the trace. -/
theorem run_quiet_hostBytes {tr : List Call} (hp : u.phase = .opened)
    (hrx : u.adapter.rxWaiting = none) (hbusy : u.adapter.txBusy = false)
    (hi : u.hostPort.inbound = pre ++ b :: more) (hpre : (runDecoder u.dstate pre).2 = [])
    (htr : actionTrace tr = actionTrace u.trace) :
    ∃ v tr', hostBytes (pre ++ [b]) u = .next v ∧
      Host.Core.run Sys2Proof.core (pre.length + 1)
        (scheduled (.replicate (pre.length + 1) quietTick ++ ops) tr u) = .next (scheduled ops tr' v) ∧
      actionTrace tr' = actionTrace v.trace := by
  induction pre generalizing u tr with
  | nil =>
    obtain ⟨tr', hstep, htr'⟩ := step_quiet_host (ops := ops) hp hrx hbusy hi htr
    exact ⟨_, tr', hostBytes_cons_of_free hi hbusy, run_succ hstep 0, htr'⟩
  | cons x pre ih =>
    obtain ⟨hx, hpre⟩ := List.append_eq_nil_iff.mp hpre
    have hadapter := afterHostByte_adapter_of_no_command (Option.toList_eq_nil_iff.mp hx)
    obtain ⟨tr₁, hstep, htr₁⟩ :=
      step_quiet_host (ops := .replicate (pre.length + 1) quietTick ++ ops) hp hrx hbusy hi htr
    obtain ⟨v, tr', hread, hrun, htr'⟩ := ih (u := afterHostByte x u) hp
      (by rw [hadapter, seizedAdapter_rxWaiting, hrx]) (by rw [hadapter, seizedAdapter_txBusy, hbusy])
      (congrArg List.tail hi) hpre htr₁
    exact ⟨v, tr', (hostBytes_cons_of_free hi hbusy).trans hread, (run_succ hstep _).trans hrun, htr'⟩

end

/-! ## The obligations -/

/-- Settles O22: by induction on the frames; each is decoded alone, and leaves the decoder in `IDLE`. -/
theorem encoderDecoderRoundTrip : Obligations.EncoderDecoderRoundTrip := by
  intro vs
  induction vs with
  | nil => rfl
  | cons v vs ih => simp [runDecoder_append, runDecoder_encodeFrame, ih]

/-- Settles O28: the port holds what is left of the sequence, and each tick reads its first byte. -/
theorem sequenceIsItsHostTicks : Obligations.SequenceIsItsHostTicks :=
  fun _ _ _ hdir hp hi => exec_sequence_eq_tHostTimes hdir hp hi

/-- Settles O29: the sequence and the ticks read the same bytes. -/
theorem quietTicksRunSequence : Obligations.QuietTicksRunSequence := by
  intro i s ops more _ hdir hp hd hrx hbusy hnext hi
  obtain ⟨pre, b, he⟩ := (List.eq_nil_or_concat' (encode i)).resolve_left
    (List.ne_nil_of_length_pos (encode_length_pos hdir))
  have hlen : (encode i).length = pre.length + 1 := by simp [he]
  have hrest : sequenceRest i s.dstate = pre ++ [b] := by rw [hd, sequenceRest_idle hdir, he]
  have hs : scheduled (.replicate (pre.length + 1) quietTick ++ ops) s.trace s = s := by
    rw [← hlen, ← hnext]; rfl
  rw [he, List.append_assoc, List.singleton_append] at hi
  obtain ⟨v, tr, hread, hrun, htr⟩ := run_quiet_hostBytes (ops := ops) hp hrx hbusy hi
    (by rw [hd]; exact runDecoder_of_encode_eq he) rfl
  rw [hs, ← hlen] at hrun
  rw [← hrest, ← exec_sequence_of_opened hdir hp] at hread
  exact ⟨_, v, hrun, hread, rfl, htr⟩

/-- Settles O58: `DSTATE` is written by a tick, which leaves it where the decoder does, or by a reset. -/
theorem stepNeverMakesDecoderStateInvalid : Obligations.StepNeverMakesDecoderStateInvalid := by
  intro s t hvalid hstep
  by_cases hkept : t.dstate = s.dstate
  · rwa [hkept]
  · rcases onlyHostBranchWritesDecoderState s t hstep hkept with ⟨m, ops, hnext, _⟩ | ⟨ops, hnext⟩
    · obtain ⟨_, _, hd, _⟩ := (step_tick_does hnext hstep).decodes
      rw [hd, (poll_polledFrom m ops s).dstate]
      exact runDecoder_ne_invalid hvalid _
    · obtain rfl : resetBlock (setPending ops s) = t := by
        simpa [step_of_reset hnext] using hstep
      exact DState.noConfusion

/-- Settles O16: by the state, and in `ESCAPE` by the class of the byte. -/
theorem decoderTransitionTable : Obligations.DecoderTransitionTable := by
  intro b
  refine ⟨rfl, ?_, rfl, rfl⟩
  change decodeEscape b = _
  by_cases hhigh : b = 0x01#8
  · subst hhigh; rfl
  by_cases hesc : b = 0xFF#8
  · subst hesc; rfl
  rw [if_neg hhigh, if_neg hesc]
  split
  case isTrue hsel => exact decodeEscape_baudSelect hsel
  case isFalse hsel =>
    exact decodeEscape_illegal (isIllegalControl_iff_range.mpr ⟨hhigh, hesc, hsel⟩)

/-- Settles O20: the decoder's row for the invalid value makes no call. -/
theorem hostBranchInInvalid : Obligations.HostBranchInInvalid := by
  intro s b rest hp hd hi
  exact exec_tHost_of_no_command hp hi (congrArg (decoderStep · b) hd)

/-- Settles O21: by the rows of the decoder; `01` leads to `HIGH`, which any byte leaves. -/
theorem decoderResynchronises : Obligations.DecoderResynchronises := by
  intro b c
  refine ⟨rfl, rfl, decodeEscape_fst, ?_⟩
  rintro rfl
  exact ⟨DState.noConfusion, rfl⟩

/-- Settles O23: the one byte is sent in `IDLE`. -/
theorem dataSendsPlainFrame : Obligations.DataSendsPlainFrame := by
  intro s dd more hp hd hfree hwf hi
  have hdec : decoderStep .idle dd = (.idle, some (.transmit (plainFrame dd))) :=
    if_neg (data_wf_iff.mp hwf)
  exact exec_sequence_from_idle (pre := []) hp hd rfl rfl hi hdec fun _ => hfree

/-- Settles O24: the second byte is sent in `ESCAPE`. -/
theorem dataffSendsFrame0FF : Obligations.DataffSendsFrame0FF := by
  intro s more hp hd hfree hi
  exact exec_sequence_from_idle (pre := [0xFF#8]) hp hd rfl rfl hi rfl fun _ => hfree

/-- Settles O25: the third byte is sent in `HIGH`. -/
theorem highSendsFrameWithSideBit : Obligations.HighSendsFrameWithSideBit := by
  intro s dd more hp hd hfree hi
  exact exec_sequence_from_idle (pre := [0xFF#8, 0x01#8]) hp hd rfl rfl hi rfl fun _ => hfree

/-- Settles O27: an illegal control byte makes no call in `ESCAPE`. -/
theorem illegalIsDiscarded : Obligations.IllegalIsDiscarded := by
  intro s cc more hp hd hwf hi
  exact exec_sequence_from_idle (pre := [0xFF#8]) hp hd rfl rfl hi (decodeEscape_illegal hwf)
    (by simp)

end Sys2Proof.Machine

/-!
SUPPORT. The proofs of the family 43_control_and_lifecycle.md. A baud-select sequence is its row of the table of
R171 to R180: the escape code, then a control byte of which the decoder makes one `UartConfigure`
(`baudRow_decodes`), so it is a case of `exec_sequence_from_idle`. `OPEN` and `CLOSE` are their calls, where
the lifecycle admits them.
-/

namespace Sys2Proof.Machine

section

variable {s : State} {i : Instr} {c : Byte} {rate baud : Nat}

/-! ## The baud-select rows (R170 to R180) -/

/-- R171 to R180: each sequence, its control byte and the rate in bit/s it sets. -/
def baudRows : List (Instr × Byte × Nat) :=
  [(.baud0, 0x10#8, 300), (.baud1, 0x11#8, 600), (.baud2, 0x12#8, 1200), (.baud3, 0x13#8, 2400),
    (.baud4, 0x14#8, 4800), (.baud5, 0x15#8, 9600), (.baud6, 0x16#8, 19200), (.baud7, 0x17#8, 38400),
    (.baud8, 0x18#8, 57600), (.baud9, 0x19#8, 115200)]

/-- What a row says to the encoder and to the decoder in `ESCAPE` (R146, R170). -/
theorem baudRow_decodes (h : (i, c, rate) ∈ baudRows) :
    i.direction = some .hostToDevice ∧ encode i = [0xFF#8, c] ∧
      decodeEscape c = (.idle, some (.configure rate)) := by
  have hrows : ∀ row ∈ baudRows, row.1.direction = some .hostToDevice ∧
      encode row.1 = [0xFF#8, row.2.1] ∧
      decodeEscape row.2.1 = (.idle, some (.configure row.2.2)) := by decide
  exact hrows _ h

/-! ## The lifecycle operations where R186 admits them -/

/-- `OPEN` at a rate of the table, after a reset, is its three calls (R184). -/
theorem exec_openBridge (hp : s.phase = .constructed) (hrate : (Instr.openBridge baud).wf = true) :
    exec (.openBridge baud) s =
      .next (setPhase .opened (enterListen (uartStart (uartConfigure baud s)))) := by
  rw [exec, execOpenBridge, hp]
  exact if_pos hrate

/-- `CLOSE` of an open bridge is its one call (R185). -/
theorem exec_closeBridge (hp : s.phase = .opened) :
    exec .closeBridge s = .next (setPhase .closed (uartStop s)) := by
  rw [exec, execCloseBridge, hp]

/-- The three calls of `OPEN` leave of the state all but the adapter and the trace (R49, R51, R53). -/
theorem configure_start_listen (baud : Nat) (s : State) :
    enterListen (uartStart (uartConfigure baud s)) = { s with
      adapter := { configured baud s.adapter with
        enabled := true
        line := .unreferenced (lineComplete s.adapter.line)
        direction := .listen }
      trace := s.trace ++ [.uartConfigure baud, .uartStart, .enterListen] } := by
  simp [enterListen, uartStart, uartConfigure, record, setAdapter, configured]

end

/-! ## The obligations -/

/-- Settles O26: the second byte is a row's control byte, which configures the row's rate in `ESCAPE`. -/
theorem baudSelectSetsRate : Obligations.BaudSelectSetsRate := by
  intro s i c rate more hp hd hi hrow
  obtain ⟨hdir, hbytes, hdec⟩ := baudRow_decodes hrow
  have hexec := exec_sequence_from_idle (pre := [0xFF#8]) hp hd hdir hbytes hi hdec (by simp)
  rwa [hbytes] at hexec

/-- Settles O32: the three calls in order, in the phase that admits them. -/
theorem openConfiguresStartsAndListens : Obligations.OpenConfiguresStartsAndListens := by
  intro s baud hp hrate
  rw [exec_openBridge hp hrate, configure_start_listen]
  rfl

/-- Settles O33: the one call, in the phase that admits it. -/
theorem closeStopsPeripheral : Obligations.CloseStopsPeripheral :=
  fun _ hp => exec_closeBridge hp

end Sys2Proof.Machine

/-!
SUPPORT. The proofs of the family 70_reset_and_hazards.md. A reset runs no instruction (`step_of_reset`). Before
the first transmit the contract gives no answer of `transmit_complete()`, so the environment's move
`lineAnswer` fixes it, and the row of Table R116 follows from the four answers (`poll_row`).
-/

namespace Sys2Proof.Machine

section

variable {s : State} {a : Bool}

/-- A line without a last transmitted frame answers what the environment chooses (92 D18). -/
theorem txComplete_lineAnswer (hline : s.adapter.line = .unreferenced a) (b : Bool) :
    txComplete (envMovesAfterGuard [.lineAnswer b] s) = b := by
  have hmove : (envMove (.lineAnswer b) s).adapter.line = .unreferenced b := by
    simp [envMove, adapterAfterMove, hline]
  exact congrArg lineComplete hmove

/-- With nothing to receive, send or read, the tick before whose last query the line answers `b` releases
or not by `b` (Table R116). -/
theorem poll_lineAnswer (hrx : s.adapter.rxWaiting = none) (hbusy : s.adapter.txBusy = false)
    (hin : s.hostPort.inbound = []) (hline : s.adapter.line = .unreferenced a) (b : Bool) :
    (poll ⟨[], [], [], [.lineAnswer b]⟩ s).1 = if b then .tRel else .tIdle := by
  have hready : rxReady s = false := by simp [rxReady, hrx]
  have hfree : txBusy s = false := hbusy
  have havail : availCount s = 0 := by simp [availCount, hin]
  rw [(poll_row (s1 := s) (s2 := s) (s3 := s) rfl rfl rfl rfl).1, hready, hfree, havail,
    txComplete_lineAnswer hline]
  cases b <;> rfl

end

/-! ## The obligations -/

/-- Settles O37: the step is the reset itself, with the operation taken from those called next. -/
theorem resetStepTouchesRegistersOnly : Obligations.ResetStepTouchesRegistersOnly :=
  fun _ _ hnext => step_of_reset hnext

/-- Settles O53: by the answer the environment gives to the last query. -/
theorem completeIsFreeBeforeFirstTransmit : Obligations.CompleteIsFreeBeforeFirstTransmit := by
  intro s ops a b _ hrx hbusy hin hline
  exact ⟨_, poll_lineAnswer (s := setPending ops s) hrx hbusy hin hline b⟩

end Sys2Proof.Machine
